-- ==== Sys2Proof/Word.lean ====
section
/-! DEFINITION. The bit vectors the spec treats as bits: the command word, the operand buses, the status and count
wires. -/
namespace Sys2Proof

/-- The command word, and the count bus: 8 bits (30_encoding.md R50, 10_state.md R26). -/
abbrev Byte := BitVec 8

/-- The value bus and the radix bus: 128 bits each (00_scope.md R6, 10_state.md R22, R23). -/
abbrev Bus := BitVec 128

/-- The status bus: 3 bits (10_state.md R27). -/
abbrev StatusBits := BitVec 3

end Sys2Proof
end

