-- ==== Sys2Proof/Config.lean ====
section
/-! DEFINITION. What an implementation fixes (00_scope.md R6, 20_memory.md R41) and the free values the spec leaves open
(10_state.md R36). -/
namespace Sys2Proof

/-- The operand widths W that a command can end up with (40_datapath.md, opening paragraph). -/
inductive Width where
  | w8 | w16 | w32 | w64 | w128
deriving DecidableEq, Repr

/-- W as a number of bits. -/
def Width.bits : Width → Nat
  | .w8 => 8
  | .w16 => 16
  | .w32 => 32
  | .w64 => 64
  | .w128 => 128

/-- The legal values of `PTR_W` (00_scope.md R6). PRESUMED: the set {16, 32, 64} is the spec's own general knowledge
(93_implementation_defined.md G1; log 1). -/
inductive PtrWidth where
  | p16 | p32 | p64
deriving DecidableEq, Repr

/-- "With `wsel` = 101, every rule behaves exactly as with the `wsel` code whose width equals `PTR_W`" (30_encoding.md
R52). -/
def PtrWidth.width : PtrWidth → Width
  | .p16 => .w16
  | .p32 => .w32
  | .p64 => .w64

/-- `HOST_BYTE_ORDER` (20_memory.md R41): the order in which a host platform's bytes lie on a 128-bit bus. -/
inductive ByteOrder where
  | little | big
deriving DecidableEq, Repr

/-- The OPEN parameters the model takes as an argument, fixed at build time; no command reads or writes them
(00_scope.md R6, 10_state.md R33). `LAT` is the length of the pipeline (Machine/State.lean, `Pipe.lat`). -/
structure Params where
  /-- `PTR_W`. -/
  ptrW : PtrWidth
  /-- `HOST_BYTE_ORDER`. No ILU result depends on it. -/
  hostByteOrder : ByteOrder
deriving DecidableEq, Repr

/-- The values at `State.reset`: `PTR_W` = 64 is the spec's default (00_scope.md R6; log 1). DESIGN CHOICE: the byte order
(log 13). -/
def Config.defaultParams : Params := { ptrW := .p64, hostByteOrder := .little }

/-- S[i].valid in a clock cycle before the first reset edge: a free draw, by the number of the draw and i (10_state.md R36,
70_reset_and_hazards.md R152; log 9). -/
opaque Config.powerOnValid : Nat → Nat → Bool

/-- S[i].status, in the same way (log 9). -/
opaque Config.powerOnStatus : Nat → Nat → StatusBits

/-- S[i].count, in the same way (log 9). -/
opaque Config.powerOnCount : Nat → Nat → Byte

end Sys2Proof
end

