-- ==== Sys2Proof/Machine/Datapath.lean ====
section
/-! DEFINITION. The datapath sub-blocks (40_datapath.md): pure functions of W-bit patterns held as numbers below 2^W. -/
namespace Sys2Proof.Machine

/-- The signed reading of a pattern (00_scope.md R9). -/
def sval (p W : Nat) : Int := if p.testBit (W - 1) then (p : Int) - 2 ^ W else p

/-- Sign test (R70). -/
def neg (p W : Nat) (sgn : Bool) : Bool := sgn && p.testBit (W - 1)

/-- Magnitude extractor (R71), exact for MIN_W. -/
def mag (p W : Nat) (sgn : Bool) : Nat := if neg p W sgn then 2 ^ W - p else p

/-- MIN magnitude constant (R72). -/
def minMag (W : Nat) : Nat := 2 ^ (W - 1)

/-- Leading-zero counter (R73): zero bits of `p` counted down from bit `W - 1`. -/
def clz (p : Nat) : Nat → Nat
  | 0 => 0
  | i + 1 => if p.testBit i then 0 else clz p i + 1

/-- Bit length (R74). -/
def bitlen (W p : Nat) : Nat := W - clz p W

/-- The loop of `ilog`: counts the powers of `b`, from `pw` upward, that do not exceed `m`. Products are exact. -/
def ilogUp (b m : Nat) : Nat → Nat → Nat
  | 0, _ => 0
  | fuel + 1, pw => if pw ≤ m then ilogUp b m fuel (pw * b) + 1 else 0

/-- Integer logarithm (R75), for b >= 2 and m >= 1. There are at most `log2 m` powers b^k with k >= 1 up to m (log 23). -/
def ilog (b m : Nat) : Nat := ilogUp b m m.log2 b

/-- Digit count of a magnitude, with the zero fallback (R76). -/
def countDigits (b m : Nat) : Nat := if m = 0 then 1 else 1 + ilog b m

/-- A product that saturates at 2^W (R77). -/
def satMul (W x y : Nat) : Nat := min (x * y) (2 ^ W)

/-- The loop of `ilogSat`, over saturating products. -/
def ilogSatUp (W b m : Nat) : Nat → Nat → Nat
  | 0, _ => 0
  | fuel + 1, pw => if pw ≤ m then ilogSatUp W b m fuel (satMul W pw b) + 1 else 0

/-- One circuit for ILOG on W-bit operands that R77 describes: a running power stepped upward, clamped at 2^W. -/
def ilogSat (W b m : Nat) : Nat := ilogSatUp W b m W b

/-- Power-of-two fast path (R78): `ceil(BITLEN_W(m) / t)` for radix 2^t. -/
def fastCount (W t m : Nat) : Nat := (bitlen W m + t - 1) / t

/-- MIN digit table, computed (R80). -/
def minDig (W b : Nat) : Nat := countDigits b (minMag W)

/-- NEGOCT (41_pow2_counts.md R93). -/
def negOct : Width → Nat
  | .w8 => 3
  | .w16 => 6
  | .w32 => 11
  | .w64 => 22
  | .w128 => 43

/-- NEGHEX (41_pow2_counts.md R93). -/
def negHex : Width → Nat
  | .w8 => 2
  | .w16 => 4
  | .w32 => 8
  | .w64 => 16
  | .w128 => 32

/-- The paths of the radix-dispatch multiplexer (R81). -/
inductive RadixPath where
  | bits | oct | dec | hex | gen
deriving DecidableEq, Repr

/-- DISPATCH (R81). -/
def dispatch (r : Nat) : RadixPath :=
  if r = 2 then .bits
  else if r = 8 then .oct
  else if r = 10 then .dec
  else if r = 16 then .hex
  else .gen

/-- GEN (R81): a negative value is counted from the MIN magnitude of its width, through the MIN digit table. -/
def genCount (p W : Nat) (sgn : Bool) (r : Nat) : Nat :=
  if neg p W sgn then minDig W r else countDigits r (mag p W sgn)

/-- The MIN digit table as the spec prints it (R80): the radix, then the entries for W = 8, 16, 32, 64, 128. The circuit
may hold the table or compute it; the operations use `minDig`. -/
def minDigRows : List (Nat × List Nat) :=
  [ (2, [8, 16, 32, 64, 128]), (3, [5, 10, 20, 40, 81]), (4, [4, 8, 16, 32, 64]), (5, [4, 7, 14, 28, 55]),
    (6, [3, 6, 12, 25, 50]), (7, [3, 6, 12, 23, 46]), (8, [3, 6, 11, 22, 43]), (9, [3, 5, 10, 20, 41]),
    (10, [3, 5, 10, 19, 39]), (11, [3, 5, 9, 19, 37]), (12, [2, 5, 9, 18, 36]), (13, [2, 5, 9, 18, 35]),
    (14, [2, 4, 9, 17, 34]), (15, [2, 4, 8, 17, 33]), (16, [2, 4, 8, 16, 32]), (17, [2, 4, 8, 16, 32]),
    (18, [2, 4, 8, 16, 31]), (19, [2, 4, 8, 15, 30]) ] ++
  [ (20, [2, 4, 8, 15, 30]), (21, [2, 4, 8, 15, 29]), (22, [2, 4, 7, 15, 29]), (23, [2, 4, 7, 14, 29]),
    (24, [2, 4, 7, 14, 28]), (25, [2, 4, 7, 14, 28]), (26, [2, 4, 7, 14, 28]), (27, [2, 4, 7, 14, 27]),
    (28, [2, 4, 7, 14, 27]), (29, [2, 4, 7, 13, 27]), (30, [2, 4, 7, 13, 26]), (31, [2, 4, 7, 13, 26]),
    (32, [2, 4, 7, 13, 26]), (33, [2, 3, 7, 13, 26]), (34, [2, 3, 7, 13, 25]), (35, [2, 3, 7, 13, 25]),
    (36, [2, 3, 6, 13, 25]) ]

end Sys2Proof.Machine
end

