-- ==== Sys2Proof/Syntax.lean ====
section
/-! DEFINITION. The commands of ILU-CMD8, one constructor per row of the opcode table. -/
namespace Sys2Proof

/-- The eight codes of the field `wsel` (30_encoding.md R52). The last two are reserved; a term that holds one is
ill-formed (`Instr.wellFormed`). -/
inductive WidthSel where
  | w8 | w16 | w32 | w64 | w128 | ptr | rsvd110 | rsvd111
deriving DecidableEq, Repr

/-- An operand type: the fields `nz`, `sgn` and `wsel` of the command word (00_scope.md R3, 30_encoding.md R50). -/
structure OperandType where
  /-- Non-zero refinement (R54). -/
  nz : Bool
  /-- Signedness (R53). -/
  sgn : Bool
  /-- Width select (R52). -/
  wsel : WidthSel
deriving DecidableEq, Repr

/-- The six operations (30_encoding.md R51), each over an operand type. The operands themselves are on the request port,
not in the command (R55). -/
inductive Instr where
  /-- CNT.BITS -/
  | bits (ty : OperandType)
  /-- CNT.OCT -/
  | oct (ty : OperandType)
  /-- CNT.HEX -/
  | hex (ty : OperandType)
  /-- CNT.DEC -/
  | dec (ty : OperandType)
  /-- CNT.RADIX -/
  | radix (ty : OperandType)
  /-- CNT.RADIXC -/
  | radixc (ty : OperandType)
deriving DecidableEq, Repr

/-- The operand type of a command. -/
def Instr.ty : Instr → OperandType
  | .bits ty => ty
  | .oct ty => ty
  | .hex ty => ty
  | .dec ty => ty
  | .radix ty => ty
  | .radixc ty => ty

end Sys2Proof
end

