-- ==== Sys2Proof/WellFormed.lean ====
section
/-! DEFINITION. Which terms of `Instr` are legal commands (30_encoding.md R56). -/
namespace Sys2Proof

/-- `wsel` is in 000 to 101 (30_encoding.md R56). -/
def WidthSel.legal : WidthSel → Bool
  | .w8 => true
  | .w16 => true
  | .w32 => true
  | .w64 => true
  | .w128 => true
  | .ptr => true
  | .rsvd110 => false
  | .rsvd111 => false

/-- A legal command: a legal width; "`sgn` and `nz` may take any value" (30_encoding.md R56). -/
def Instr.wellFormed (i : Instr) : Bool := i.ty.wsel.legal

end Sys2Proof
end

