-- ==== Sys2Proof/Decode.lean ====
section
/-! DEFINITION. The decoder of the 8-bit command word (30_encoding.md R50 to R58), total and rejecting by name, and the
encoder (R59). -/
namespace Sys2Proof

/-- Why a command word is no legal command (30_encoding.md R56). -/
inductive Reject where
  /-- `op` in {110, 111}. -/
  | illOp
  /-- `op` legal and `wsel` in {110, 111}. -/
  | illWidth
deriving DecidableEq, Repr

/-- Field `nz`, bit 7 (R50). -/
def cmdNz (c : Byte) : Bool := c.getLsbD 7

/-- Field `sgn`, bit 6 (R50). -/
def cmdSgn (c : Byte) : Bool := c.getLsbD 6

/-- Field `wsel`, bits 5:3 (R50). -/
def cmdWsel (c : Byte) : BitVec 3 := c.extractLsb' 3 3

/-- Field `op`, bits 2:0 (R50). -/
def cmdOp (c : Byte) : BitVec 3 := c.extractLsb' 0 3

/-- The table of `wsel` codes (R52). -/
def WidthSel.ofCode (w : BitVec 3) : WidthSel :=
  match w.toNat with
  | 0 => .w8
  | 1 => .w16
  | 2 => .w32
  | 3 => .w64
  | 4 => .w128
  | 5 => .ptr
  | 6 => .rsvd110
  | _ => .rsvd111

/-- One row of the decode table (R58): the row is selected when `(c & mask) == match`. -/
structure DecodeRow where
  pattern : Byte
  mask : Byte
  make : OperandType → Instr

/-- The decode table (R58), in its order. -/
def decodeTable : List DecodeRow :=
  [ ⟨0x00#8, 0x07#8, .bits⟩,
    ⟨0x01#8, 0x07#8, .oct⟩,
    ⟨0x02#8, 0x07#8, .hex⟩,
    ⟨0x03#8, 0x07#8, .dec⟩,
    ⟨0x04#8, 0x07#8, .radix⟩,
    ⟨0x05#8, 0x07#8, .radixc⟩ ]

/-- `(c & mask) == match` (R58). -/
def DecodeRow.selects (row : DecodeRow) (c : Byte) : Bool := c &&& row.mask == row.pattern

/-- The operand type a command word spells. -/
def cmdType (c : Byte) : OperandType :=
  { nz := cmdNz c, sgn := cmdSgn c, wsel := WidthSel.ofCode (cmdWsel c) }

/-- Decode a command word (R58): a word that matches no row has a reserved `op`; a word that matches one and fails the
further condition has a reserved `wsel`. -/
def decode (c : Byte) : Except Reject Instr :=
  match decodeTable.find? (·.selects c) with
  | none => .error .illOp
  | some row => if (cmdType c).wsel.legal then .ok (row.make (cmdType c)) else .error .illWidth

/-- The `op` code of a command (R51). -/
def Instr.opCode : Instr → Nat
  | .bits _ => 0
  | .oct _ => 1
  | .hex _ => 2
  | .dec _ => 3
  | .radix _ => 4
  | .radixc _ => 5

/-- The `wsel` code of a width select (R52). -/
def WidthSel.code : WidthSel → Nat
  | .w8 => 0
  | .w16 => 1
  | .w32 => 2
  | .w64 => 3
  | .w128 => 4
  | .ptr => 5
  | .rsvd110 => 6
  | .rsvd111 => 7

/-- The base byte of an operand type (R59): `nz*0x80 + sgn*0x40 + wsel*0x08`. -/
def OperandType.base (ty : OperandType) : Nat :=
  ty.nz.toNat * 0x80 + ty.sgn.toNat * 0x40 + ty.wsel.code * 0x08

/-- The command byte (R59): "Add the `op` code of rule R51 to the base". -/
def encode (i : Instr) : Byte := BitVec.ofNat 8 (i.ty.base + i.opCode)

/-- The instruction the decoder reads from a word of `nbits` bits numbered as the opcode table numbers them: the command
is the first byte, and every bit above `nbits` is 0 (log 17). -/
def decodeTableWord (nbits w : Nat) : Option Instr :=
  match decode (BitVec.ofNat 8 (w % 2 ^ nbits)) with
  | .ok i => some i
  | .error _ => none

end Sys2Proof
end

