-- ==== Sys2Proof/Machine/State.lean ====
section
/-! DEFINITION. The state of the ILU and of the host beside it, as plain data, and the state after reset. -/
namespace Sys2Proof.Machine

/-- One pipeline stage S[i] (10_state.md R24). The status is kept as its three wires: before the first reset they may
hold any value, 110 and 111 included (R36). -/
structure Stage where
  valid : Bool
  status : StatusBits
  count : Byte
deriving DecidableEq, Repr

/-- A stage with no response (10_state.md R28, R36). -/
def Stage.bubble : Stage := { valid := false, status := 0b000#3, count := 0x00#8 }

/-- The pipeline S[1] to S[LAT] (10_state.md R24): `s1` is S[1], `later` is S[2] to S[LAT] in order, so `LAT` >= 1 by its
form (log 2). -/
structure Pipe where
  s1 : Stage
  later : List Stage
deriving DecidableEq, Repr

/-- The parameter `LAT` (00_scope.md R6). -/
def Pipe.lat (p : Pipe) : Nat := p.later.length + 1

/-- S[1], ..., S[LAT]. -/
def Pipe.stages (p : Pipe) : List Stage := p.s1 :: p.later

/-- S[LAT], which drives the response port (10_state.md R25). -/
def Pipe.last (p : Pipe) : Stage := p.later.getLastD p.s1

/-- The pipeline after a reset edge, of the same length (10_state.md R36). -/
def Pipe.cleared (p : Pipe) : Pipe := { s1 := .bubble, later := p.later.map fun _ => .bubble }

/-- The 264 bits of a request (10_state.md R20, 20_memory.md R43). -/
structure Request where
  /-- `req_cmd` -/
  cmd : Byte
  /-- `req_value` -/
  value : Bus
  /-- `req_radix` -/
  radix : Bus
deriving DecidableEq, Repr

/-- The levels on the input ports in one clock cycle (10_state.md R20). -/
structure Port where
  /-- `rst` -/
  rst : Bool
  /-- `req_valid` -/
  reqValid : Bool
  /-- `req_cmd`, `req_value`, `req_radix` -/
  req : Request
deriving DecidableEq, Repr

/-- What the host does with the response port in a cycle (70_reset_and_hazards.md R156, R157; log 7). -/
inductive HostAct where
  /-- It takes a response shown in this cycle. -/
  | take
  /-- It does not take one. -/
  | leave
  /-- It repeats the cycle until a response is shown, and takes it. -/
  | await
deriving DecidableEq, Repr

/-- One cycle of the host: the levels it drives and what it does with the response port. -/
structure Cycle where
  port : Port
  act : HostAct
deriving DecidableEq, Repr

/-- A cycle in which the host presents nothing. DESIGN CHOICE: the levels of the request inputs, which nothing reads
(10_state.md R21; log 4, log 5). -/
def Cycle.idle : Cycle :=
  { port := { rst := false, reqValid := false, req := { cmd := 0#8, value := 0#128, radix := 0#128 } }, act := .take }

/-- The six statuses a response can carry (60_exceptions.md R131). -/
inductive Status where
  | ok | absent | radixFail | illOp | illWidth | nzViolation
deriving DecidableEq, Repr

/-- The pair (status, count) that one request yields (00_scope.md R10, `respond`). -/
structure Response where
  status : Status
  count : Byte
deriving DecidableEq, Repr

/-- An ordinary result that the host passes on (60_exceptions.md R136). -/
inductive CallResult where
  /-- "On OK, the count is the result of the call." -/
  | count (n : Byte)
  /-- "On ABSENT, the call returned 'absent'." -/
  | absent
deriving DecidableEq, Repr

/-- A call that ended with a result: the request it was (none where no sampled request stands behind the response) and
the result. -/
structure Call where
  request : Option Request
  result : CallResult
deriving DecidableEq, Repr

/-- The faults a model of the host records and never clears (60_exceptions.md R136; log 6). -/
inductive HostFault where
  /-- Status RADIX_FAIL taken: the source's abort (R136). -/
  | radixFail
  /-- Status ILL_OP taken: the request spells no operation (R136). -/
  | illOp
  /-- Status ILL_WIDTH taken (R136). -/
  | illWidth
  /-- Status NZ_VIOLATION taken (R136). -/
  | nzViolation
  /-- A response was not taken in its one cycle (70_reset_and_hazards.md R156). -/
  | lostResponse
  /-- The host acted on a response shown before the first reset edge (R152). -/
  | actedBeforeReset
  /-- A response carries a status code that is never produced (93_implementation_defined.md section 2; log 8). -/
  | unknownStatus
deriving DecidableEq, Repr

/-- What a model of the host keeps (60_exceptions.md R136, 70_reset_and_hazards.md R152, R156, R157). -/
structure Ledger where
  /-- Whether a reset edge has come since power-on (R152, R154). -/
  booted : Bool
  /-- The sampled requests that have had no response yet, oldest first (R157). -/
  outstanding : List Request
  /-- The request whose response is on the port (20_memory.md R45). -/
  shown : Option Request
  /-- The results taken, newest first (R136). -/
  calls : List Call
  /-- The faults recorded, newest first, never cleared (R136). -/
  faults : List HostFault
deriving DecidableEq, Repr

/-- The whole state: the parameters, the ILU's pipeline (its only state, 10_state.md R24), the levels on the input ports
in this cycle, the cycles the host drives next, the host's ledger, and the model's own counter of free draws. -/
structure State where
  params : Params
  pipe : Pipe
  now : Cycle
  script : List Cycle
  host : Ledger
  /-- How many free draws of the pipeline have been made: the next one takes this number (log 9). Nothing reads it once a
  reset edge has come. -/
  draws : Nat
deriving DecidableEq, Repr

/-- Why the machine stops. -/
inductive Fault where
  /-- The host waits for a response that cannot come: none is shown or in flight, and this cycle samples no request and
  resets nothing. "A host waiting for one is `stuck`" (93_implementation_defined.md section 2, 70_reset_and_hazards.md
  R157). Raised by `step`, never by an instruction. Safe: no step is invented where the host would wait for ever. -/
  | hostStuck
deriving DecidableEq, Repr

/-- Why an instruction has no meaning. -/
inductive Refusal where
  /-- An instruction without a meaning yet. Raised by no arm of `exec`. Safe. -/
  | notModelled (mnemonic : String)
deriving DecidableEq, Repr

/-- The host's ledger right after the reset edge that follows power-on (70_reset_and_hazards.md R157). DESIGN CHOICE: a
host that has taken and recorded nothing yet (log 22). -/
def Ledger.afterReset : Ledger := { booted := true, outstanding := [], shown := none, calls := [], faults := [] }

/-- The machine right after reset: every stage cleared (10_state.md R36), the parameters at the spec's defaults
(`PTR_W` = 64, `LAT` = 1, 00_scope.md R6; log 1, log 2), the host presenting nothing (log 5). DESIGN CHOICE: the counter of free draws, which nothing reads then (log 9). -/
def State.reset : State :=
  { params := Config.defaultParams, pipe := { s1 := .bubble, later := [] }, now := .idle, script := [],
    host := .afterReset, draws := 0 }

end Sys2Proof.Machine
end

