-- ==== Sys2Proof/Machine/Flags.lean ====
section
/-! DEFINITION. The ILU has no flags (10_state.md R32); a status travels with each response. This file holds the status
codes (60_exceptions.md R131). -/
namespace Sys2Proof.Machine

/-- The code of a status on `rsp_status[2:0]` (60_exceptions.md R131). -/
def Status.code : Status → StatusBits
  | .ok => 0b000#3
  | .absent => 0b001#3
  | .radixFail => 0b010#3
  | .illOp => 0b011#3
  | .illWidth => 0b100#3
  | .nzViolation => 0b101#3

/-- The status a code names; 110 and 111 are never produced (R131). -/
def Status.ofCode (c : StatusBits) : Option Status :=
  match c.toNat with
  | 0 => some .ok
  | 1 => some .absent
  | 2 => some .radixFail
  | 3 => some .illOp
  | 4 => some .illWidth
  | 5 => some .nzViolation
  | _ => none

/-- The status a reserved command word gets (60_exceptions.md R133). -/
def rejectStatus : Reject → Status
  | .illOp => .illOp
  | .illWidth => .illWidth

end Sys2Proof.Machine
end

