-- ==== Sys2Proof/Machine/Ops.lean ====
section
/-! DEFINITION. The operations every command shares: forming a response, `raise`, moving the pipeline by one edge, reading
the ports. The ILU has no memory and no registers (20_memory.md R40, 10_state.md R30), so there is no operation over
either; it has no trap, and `raise` only reports a status (60_exceptions.md R130). -/
namespace Sys2Proof.Machine

/-- `respond(OK, zext_8(count))` (00_scope.md R10, 10_state.md R26). -/
def respondOk (count : Nat) : Response := { status := .ok, count := BitVec.ofNat 8 count }

/-- `raise <Status>`: `respond(<Status>, 0)` and nothing else; nothing is saved, no mode changes, and no return exists
(00_scope.md R10, 60_exceptions.md R130, R137). -/
def raiseStatus (st : Status) : Response := { status := st, count := 0x00#8 }

/-- The stage a response enters (10_state.md R29). -/
def Stage.ofResponse (r : Response) : Stage := { valid := true, status := r.status.code, count := r.count }

/-- One edge without reset: S[1] takes `new`, and S[i] takes the old S[i-1] for i = 2 .. LAT (10_state.md R29). -/
def Pipe.shift (p : Pipe) (new : Stage) : Pipe := { s1 := new, later := p.stages.dropLast }

/-- The sampled request's response enters the pipeline (10_state.md R29). Nothing else of the state is written. -/
def State.answer (s : State) (r : Response) : State := { s with pipe := s.pipe.shift (.ofResponse r) }

/-- The response port, driven combinationally from S[LAT] (10_state.md R25). -/
def State.rsp (s : State) : Stage := s.pipe.last

/-- What the input ports ask of the next edge (10_state.md R21, R29; 70_reset_and_hazards.md R150: reset wins). -/
inductive PortEvent where
  | reset
  | idle
  | request (req : Request)
deriving DecidableEq, Repr

/-- The event of a cycle's levels. The request inputs are read only when a request is sampled (10_state.md R21). -/
def Port.event (p : Port) : PortEvent :=
  if p.rst then .reset else if p.reqValid then .request p.req else .idle

/-- The request sampled at the edge that ends a cycle with these levels. -/
def Port.sampled (p : Port) : Option Request :=
  match p.event with
  | .request req => some req
  | .idle => none
  | .reset => none

/-- Apply `f` to the next state of an outcome; a fault or a refusal stays. -/
def mapNext (f : State → State) : Host.Outcome State Fault Refusal → Host.Outcome State Fault Refusal
  | .next s => .next (f s)
  | .fault r => .fault r
  | .refused r => .refused r

end Sys2Proof.Machine
end

