-- ==== Sys2Proof/Machine/Operands.lean ====
section
/-! DEFINITION. The operands of a request (30_encoding.md R52, R55; 10_state.md R22, R23) and the two operand checks that
every operation shares (60_exceptions.md R134). Operands are mathematical integers below 2^W (00_scope.md R8). -/
namespace Sys2Proof.Machine

/-- The width a `wsel` selects, none for a reserved code (30_encoding.md R52). -/
def widthOf (ptrW : PtrWidth) : WidthSel → Option Width
  | .w8 => some .w8
  | .w16 => some .w16
  | .w32 => some .w32
  | .w64 => some .w64
  | .w128 => some .w128
  | .ptr => some ptrW.width
  | .rsvd110 => none
  | .rsvd111 => none

/-- `bus[W-1:0]` as an unsigned number: p of 10_state.md R22, r of R23. Bits above W are ignored. -/
def lowBits (W : Width) (bus : Bus) : Nat := bus.toNat % 2 ^ W.bits

/-- The second and third check of `EVAL` (60_exceptions.md R134): a reserved width gives ILL_WIDTH, a zero value under
`nz` gives NZ_VIOLATION; otherwise the operation `k` runs on W and p. -/
def checkOperand (ptrW : PtrWidth) (ty : OperandType) (req : Request) (k : Width → Nat → Response) : Response :=
  match widthOf ptrW ty.wsel with
  | none => raiseStatus .illWidth
  | some W => if ty.nz && lowBits W req.value == 0 then raiseStatus .nzViolation else k W (lowBits W req.value)

/-- The meaning every instruction shares: the request on the port is checked, the operation is evaluated on it, and the
response enters the pipeline. -/
def State.evaluate (s : State) (ty : OperandType) (k : Width → Nat → Response) : State :=
  s.answer (checkOperand s.params.ptrW ty s.now.port.req k)

end Sys2Proof.Machine
end

