-- ==== Sys2Proof/Machine/Decimal.lean ====
section
/-! DEFINITION. CNT.DEC (42_decimal.md). It reads no bit of `req_radix`. -/
namespace Sys2Proof.Machine

/-- The count of base-10 digits of the magnitude (R100). -/
def decCount (W : Width) (sgn : Bool) (p : Nat) : Nat := countDigits 10 (mag p W.bits sgn)

/-- CNT.DEC (R100). -/
def execDec (ty : OperandType) (s : State) : Host.Outcome State Fault Refusal :=
  .next (s.evaluate ty fun W p => respondOk (decCount W ty.sgn p))

end Sys2Proof.Machine
end

