-- ==== Sys2Proof/Machine/Pow2.lean ====
section
/-! DEFINITION. CNT.BITS, CNT.OCT and CNT.HEX (41_pow2_counts.md). None of the three reads `req_radix`. -/
namespace Sys2Proof.Machine

/-- The count of base-2 digits (R90). -/
def bitsCount (W : Width) (sgn : Bool) (p : Nat) : Nat :=
  if neg p W.bits sgn then W.bits else countDigits 2 p

/-- The count of base-8 digits (R91). -/
def octCount (W : Width) (sgn : Bool) (p : Nat) : Nat :=
  if neg p W.bits sgn then negOct W else countDigits 8 p

/-- The count of base-16 digits (R92). -/
def hexCount (W : Width) (sgn : Bool) (p : Nat) : Nat :=
  if neg p W.bits sgn then negHex W else countDigits 16 p

/-- CNT.BITS (R90). -/
def execBits (ty : OperandType) (s : State) : Host.Outcome State Fault Refusal :=
  .next (s.evaluate ty fun W p => respondOk (bitsCount W ty.sgn p))

/-- CNT.OCT (R91). -/
def execOct (ty : OperandType) (s : State) : Host.Outcome State Fault Refusal :=
  .next (s.evaluate ty fun W p => respondOk (octCount W ty.sgn p))

/-- CNT.HEX (R92). -/
def execHex (ty : OperandType) (s : State) : Host.Outcome State Fault Refusal :=
  .next (s.evaluate ty fun W p => respondOk (hexCount W ty.sgn p))

end Sys2Proof.Machine
end

