-- ==== Sys2Proof/Machine/Radix.lean ====
section
/-! DEFINITION. CNT.RADIX and CNT.RADIXC (43_radix.md). -/
namespace Sys2Proof.Machine

/-- The count of base-r digits for r >= 2, through the radix-dispatch multiplexer (R110, 40_datapath.md R81). -/
def radixCount (W : Width) (sgn : Bool) (p r : Nat) : Nat :=
  match dispatch r with
  | .bits => bitsCount W sgn p
  | .oct => octCount W sgn p
  | .dec => decCount W sgn p
  | .hex => hexCount W sgn p
  | .gen => genCount p W.bits sgn r

/-- The response of an arbitrary-radix count: `below` is the status for a radix 0 or 1, the last check of 60_exceptions.md
R134. -/
def radixResponse (below : Status) (W : Width) (sgn : Bool) (p r : Nat) : Response :=
  if r < 2 then raiseStatus below else respondOk (radixCount W sgn p r)

/-- CNT.RADIX, fail-fast (R110). -/
def execRadix (ty : OperandType) (s : State) : Host.Outcome State Fault Refusal :=
  .next (s.evaluate ty fun W p => radixResponse .radixFail W ty.sgn p (lowBits W s.now.port.req.radix))

/-- CNT.RADIXC, checked (R111). -/
def execRadixc (ty : OperandType) (s : State) : Host.Outcome State Fault Refusal :=
  .next (s.evaluate ty fun W p => radixResponse .absent W ty.sgn p (lowBits W s.now.port.req.radix))

end Sys2Proof.Machine
end

