-- ==== Sys2Proof/Machine/Dispatch.lean ====
section
/-! DEFINITION. One arm per constructor of `Instr`: the meaning of each command (60_exceptions.md R134, the case on `op`). -/
namespace Sys2Proof.Machine

def exec (i : Instr) (s : State) : Host.Outcome State Fault Refusal :=
  match i with
  | .bits ty => Sys2Proof.Machine.execBits ty s
  | .oct ty => Sys2Proof.Machine.execOct ty s
  | .hex ty => Sys2Proof.Machine.execHex ty s
  | .dec ty => Sys2Proof.Machine.execDec ty s
  | .radix ty => Sys2Proof.Machine.execRadix ty s
  | .radixc ty => Sys2Proof.Machine.execRadixc ty s

end Sys2Proof.Machine
end

