-- ==== Sys2Proof/Machine/HostSide.lean ====
section
/-! DEFINITION. The host agent (00_scope.md R7): what it does with the response port, what a model of it records
(60_exceptions.md R136, 70_reset_and_hazards.md R152, R156, R157), which cycle it drives next, and the end of a run
(R159). -/
namespace Sys2Proof.Machine

/-- Record a fault that is never cleared (60_exceptions.md R136). -/
def Ledger.addFault (h : Ledger) (f : HostFault) : Ledger := { h with faults := f :: h.faults }

/-- Record a call's result (60_exceptions.md R136). -/
def Ledger.addCall (h : Ledger) (r : CallResult) : Ledger := { h with calls := { request := h.shown, result := r } :: h.calls }

/-- The host takes a response (60_exceptions.md R136): OK and ABSENT are results, the other four codes are faults, and a
code that is never produced is refused as a fault of its own (log 8). -/
def Ledger.receive (h : Ledger) (rsp : Stage) : Ledger :=
  match Status.ofCode rsp.status with
  | some .ok => h.addCall (.count rsp.count)
  | some .absent => h.addCall .absent
  | some .radixFail => h.addFault .radixFail
  | some .illOp => h.addFault .illOp
  | some .illWidth => h.addFault .illWidth
  | some .nzViolation => h.addFault .nzViolation
  | none => h.addFault .unknownStatus

/-- The host's side of one cycle (log 10): a response shown and taken is received; one shown and not taken is lost
(70_reset_and_hazards.md R156); before the first reset edge no response counts, and acting on one is a fault (R152);
`rsp_valid` = 0 is no response (10_state.md R28). -/
def Ledger.observe (h : Ledger) (act : HostAct) (rsp : Stage) : Ledger :=
  if rsp.valid then
    match h.booted, act with
    | true, .take => h.receive rsp
    | true, .await => h.receive rsp
    | true, .leave => h.addFault .lostResponse
    | false, .take => h.addFault .actedBeforeReset
    | false, .await => h.addFault .actedBeforeReset
    | false, .leave => h
  else h

/-- The host's count of outstanding requests across an edge (70_reset_and_hazards.md R157): a reset edge empties it; a
sampled request joins it last; a response on the port after the edge is that of the oldest (20_memory.md R45). -/
def Ledger.track (h : Ledger) (port : Port) (rspAfter : Stage) : Ledger :=
  if port.rst then { h with booted := true, outstanding := [], shown := none }
  else if rspAfter.valid then
    { h with outstanding := (h.outstanding ++ port.sampled.toList).tail,
             shown := (h.outstanding ++ port.sampled.toList).head? }
  else { h with outstanding := h.outstanding ++ port.sampled.toList, shown := none }

/-- The host repeats this cycle: it awaits a response, none is shown, and no reset ends the wait (log 7, log 18). -/
def State.repeats (s : State) : Bool := s.now.act == .await && !s.rsp.valid && !s.now.port.rst

/-- The cycle the host drives after this one. DESIGN CHOICE: at the end of the script it presents nothing (log 4). -/
def State.nextCycle (s : State) : Cycle := if s.repeats then s.now else s.script.headD .idle

/-- The rest of the script after this cycle. -/
def State.nextScript (s : State) : List Cycle := if s.repeats then s.script else s.script.tail

/-- A host waiting for a response that cannot come: "stuck (no step)" (93_implementation_defined.md section 2; log 7).
Before the first reset edge `rsp_valid` "may then read 1" at any time (70_reset_and_hazards.md R152), so no wait is hopeless. -/
def State.stuck (s : State) : Bool :=
  s.host.booted && s.now.act == .await && s.now.port.event == .idle && s.pipe.stages.all fun st => !st.valid

/-- What the host adds around the ILU's edge: it has observed the response of the cycle that ends (`before`), it tracks
the request sampled and the response shown next, and it drives its next cycle. -/
def closeEdge (before after : State) : State :=
  { after with
    host := (before.host.observe before.now.act before.rsp).track before.now.port after.rsp
    now := before.nextCycle
    script := before.nextScript }

/-- The end of a run (70_reset_and_hazards.md R159): the host presents no more requests, and every sampled request has had
its response on the port or been discarded (log 19). -/
def State.runEnded (s : State) : Bool :=
  (s.now :: s.script).all (fun c => !c.port.reqValid) && s.host.outstanding.isEmpty

/-- A 128-bit bus from the bytes of a host mapping, in address order (20_memory.md R41). DESIGN CHOICE: where the list is not 16
bytes long, the list is one number in its byte order, with zeros above a short one, and a long one keeps its low 128 bits
(log 24). -/
def busOfBytes (order : ByteOrder) (bytes : List Byte) : Bus :=
  match order with
  | .little => BitVec.ofNat 128 (bytes.foldr (fun b n => b.toNat + 256 * n) 0)
  | .big => BitVec.ofNat 128 (bytes.foldl (fun n b => b.toNat + 256 * n) 0)

/-- A host attached through a byte-addressed mapping presents a request: its operand bytes, in address order, reach the
buses in the platform's byte order (20_memory.md R41; for a list that is not 16 bytes long, log 24). -/
def State.presentBytes (s : State) (cmd : Byte) (value radix : List Byte) : State :=
  { s with now := { s.now with port :=
      { rst := false, reqValid := true,
        req := { cmd := cmd, value := busOfBytes s.params.hostByteOrder value,
                 radix := busOfBytes s.params.hostByteOrder radix } } } }

end Sys2Proof.Machine
end

