-- ==== Sys2Proof/Machine/Edge.lean ====
section
/-! DEFINITION. The ILU's own part of one rising edge (10_state.md R29): reset, a bubble, or the sampled command, decoded and
executed; and the free contents of the pipeline until the first reset edge (70_reset_and_hazards.md R152). -/
namespace Sys2Proof.Machine

/-- The reset edge (70_reset_and_hazards.md R150). -/
def State.clearPipe (s : State) : State := { s with pipe := s.pipe.cleared }

/-- An edge that samples nothing: a bubble enters S[1] (10_state.md R29). -/
def State.bubble (s : State) : State := { s with pipe := s.pipe.shift .bubble }

/-- A sampled command word: a legal one is executed; a reserved one "yields a response like any other request, with count
0" (30_encoding.md R56, 60_exceptions.md R133; log 12). -/
def runCommand (s : State) (cmd : Byte) : Host.Outcome State Fault Refusal :=
  match decode cmd with
  | .ok i => exec i s
  | .error r => .next (s.answer (raiseStatus (rejectStatus r)))

/-- S[i] in draw number `d`: every field of it free (10_state.md R36). -/
def powerOnStage (d i : Nat) : Stage :=
  { valid := Config.powerOnValid d i, status := Config.powerOnStatus d i, count := Config.powerOnCount d i }

/-- A pipeline of `n` + 1 stages in a cycle before the first reset edge: "every stage field is UNSPECIFIED"
(70_reset_and_hazards.md R152). -/
def powerOnPipe (d n : Nat) : Pipe :=
  { s1 := powerOnStage d 1, later := (List.range n).map fun k => powerOnStage d (k + 2) }

/-- The pipeline, of the same length, at its next free draw. -/
def State.drawPipe (s : State) : State :=
  { s with pipe := powerOnPipe s.draws s.pipe.later.length, draws := s.draws + 1 }

/-- An edge without reset, from `before` to `after`. Until the first reset edge it fixes no stage: they are drawn anew
(70_reset_and_hazards.md R152, 93_implementation_defined.md section 2; log 9). -/
def settle (before after : State) : State := if before.host.booted then after else after.drawPipe

/-- The ILU at one rising edge (10_state.md R29, 70_reset_and_hazards.md R152). -/
def iluEdge (s : State) : Host.Outcome State Fault Refusal :=
  match s.now.port.event with
  | .reset => .next s.clearPipe
  | .idle => .next (settle s s.bubble)
  | .request req => mapNext (settle s) (runCommand s req.cmd)

/-- The machine at power-on, with `LAT` = `n` + 1, before the first reset edge (70_reset_and_hazards.md R152; log 9). -/
def State.powerOn (params : Params) (n : Nat) (now : Cycle) (script : List Cycle) : State :=
  { params := params
    pipe := powerOnPipe 0 n
    now := now, script := script
    host := { booted := false, outstanding := [], shown := none, calls := [], faults := [] }
    draws := 1 }

/-- Drive a request with this command word on the request port in this cycle; the operand buses stay as they are. -/
def State.presentCommand (s : State) (cmd : Byte) : State :=
  { s with now := { s.now with port := { s.now.port with
      rst := false, reqValid := true, req := { s.now.port.req with cmd := cmd } } } }

end Sys2Proof.Machine
end

