-- ==== Sys2Proof/Machine/Step.lean ====
section
/-! DEFINITION. One step of the machine: one rising edge of `clk`, with the host's cycle that ends at it. -/
namespace Sys2Proof.Machine

/-- One rising edge (10_state.md R29). The only stop is a host that waits for ever (93_implementation_defined.md
section 2). -/
def step (s : State) : Host.Outcome State Fault Refusal :=
  if s.stuck then .fault .hostStuck else mapNext (closeEdge s) (iluEdge s)

/-- The command word `w` driven on the request port, where the next edge samples it: the ILU fetches no instructions
(10_state.md R31; log 15, log 17). -/
def State.withFetchWord (s : State) (nbits w : Nat) : State := s.presentCommand (BitVec.ofNat 8 (w % 2 ^ nbits))

end Sys2Proof.Machine
end

