-- ==== Sys2Proof/Machine/Assembler.lean ====
section
/-! DEFINITION. The assembler of ILU-CMD8 (30_encoding.md R60): from a request as written to the request on the port, or
an assembly error. -/
namespace Sys2Proof.Machine

/-- `<OP>` (R60). -/
def opName : Instr → String
  | .bits _ => "BITS"
  | .oct _ => "OCT"
  | .hex _ => "HEX"
  | .dec _ => "DEC"
  | .radix _ => "RADIX"
  | .radixc _ => "RADIXC"

/-- The number of `<TYPE>` (R52, R60); a reserved width has no spelling. -/
def widthName : WidthSel → Option String
  | .w8 => some "8"
  | .w16 => some "16"
  | .w32 => some "32"
  | .w64 => some "64"
  | .w128 => some "128"
  | .ptr => some "PTR"
  | .rsvd110 => none
  | .rsvd111 => none

/-- `<TYPE>` is `[NZ](U|I)(8|16|32|64|128|PTR)` (R60). -/
def typeName (ty : OperandType) : Option String :=
  (widthName ty.wsel).map fun w => (if ty.nz then "NZ" else "") ++ (if ty.sgn then "I" else "U") ++ w

/-- `CNT.<OP>.<TYPE>` (R60). -/
def asmName (i : Instr) : Option String := (typeName i.ty).map fun t => "CNT." ++ opName i ++ "." ++ t

/-- Whether a command takes a radix operand (R60). -/
def takesRadix : Instr → Bool
  | .bits _ => false
  | .oct _ => false
  | .hex _ => false
  | .dec _ => false
  | .radix _ => true
  | .radixc _ => true

/-- A request as written (R60): a command with its literals, or a raw word with its operands. -/
inductive AsmStmt where
  | cnt (i : Instr) (value : Int) (radix : Option Nat)
  | word8 (cmd : Byte) (value radix : Nat)
deriving DecidableEq, Repr

/-- The range of a value literal: the operand type's (R60; DEDUCED for hexadecimal literals of I types, log 14). -/
def valueInRange (W : Width) (ty : OperandType) (v : Int) : Bool :=
  (if ty.sgn then decide (-(2 ^ (W.bits - 1) : Int) ≤ v ∧ v < 2 ^ (W.bits - 1))
   else decide (0 ≤ v ∧ v < 2 ^ W.bits)) && !(ty.nz && v == 0)

/-- The W-bit pattern of a literal (R60). -/
def pattern (W : Width) (v : Int) : Nat := (v % 2 ^ W.bits).toNat

/-- The radix literal on the bus: 0 for the four ops without one, 0 to 2^W - 1 for the other two, else an error (R60). -/
def radixLiteral (W : Width) (i : Instr) (radix : Option Nat) : Option Nat :=
  match takesRadix i, radix with
  | false, none => some 0
  | false, some _ => none
  | true, none => none
  | true, some r => if r < 2 ^ W.bits then some r else none

/-- Assemble a request as written; none is an assembly error (R60). -/
def assemble (ptrW : PtrWidth) : AsmStmt → Option Request
  | .cnt i v radix =>
    match widthOf ptrW i.ty.wsel with
    | none => none
    | some W =>
      if valueInRange W i.ty v then
        (radixLiteral W i radix).map fun r =>
          { cmd := encode i, value := BitVec.ofNat 128 (pattern W v), radix := BitVec.ofNat 128 r }
      else none
  | .word8 cmd v r =>
    if v < 2 ^ 128 ∧ r < 2 ^ 128 then
      some { cmd := cmd, value := BitVec.ofNat 128 v, radix := BitVec.ofNat 128 r }
    else none

end Sys2Proof.Machine
end

