-- ==== Sys2Proof/Machine/Eval.lean ====
section
/-! DEFINITION. `EVAL`, the whole function from a request to its response, and the pipeline's step relation, both written
from their pseudocode (60_exceptions.md R134, 10_state.md R29) apart from the decoder and the dispatch. `step` goes through
decode and exec; that the two agree is a statement. -/
namespace Sys2Proof.Machine

/-- `[8, 16, 32, 64, 128, PTR_W][wsel]` (R134); read only for `wsel` <= 101. -/
def evalWidth (ptrW : PtrWidth) (wsel : BitVec 3) : Width :=
  [.w8, .w16, .w32, .w64, .w128, ptrW.width].getD wsel.toNat ptrW.width

/-- `EVAL(cmd, value, radix)` (R134). -/
def eval (ptrW : PtrWidth) (req : Request) : Response :=
  let op := cmdOp req.cmd
  let wsel := cmdWsel req.cmd
  let sgn := cmdSgn req.cmd
  let nz := cmdNz req.cmd
  if op = 0b110#3 ∨ op = 0b111#3 then raiseStatus .illOp
  else if wsel = 0b110#3 ∨ wsel = 0b111#3 then raiseStatus .illWidth
  else
    let W := evalWidth ptrW wsel
    let p := lowBits W req.value
    if nz = true ∧ p = 0 then raiseStatus .nzViolation
    else
      match op.toNat with
      | 0 => respondOk (bitsCount W sgn p)
      | 1 => respondOk (octCount W sgn p)
      | 2 => respondOk (hexCount W sgn p)
      | 3 => respondOk (decCount W sgn p)
      | 4 => radixResponse .radixFail W sgn p (lowBits W req.radix)
      | _ => radixResponse .absent W sgn p (lowBits W req.radix)

/-- The stage that enters S[1] at an edge without reset (10_state.md R29). -/
def stageIn (ptrW : PtrWidth) (port : Port) : Stage :=
  if port.reqValid then .ofResponse (eval ptrW port.req) else .bubble

/-- The step relation of the pipeline (10_state.md R29), where its contents count: from the first reset edge on
(70_reset_and_hazards.md R152). -/
def Pipe.edge (ptrW : PtrWidth) (p : Pipe) (port : Port) : Pipe :=
  if port.rst then p.cleared else p.shift (stageIn ptrW port)

end Sys2Proof.Machine
end

