-- ==== Sys2Proof/Machine/Invariant.lean ====
section
/-! DEFINITION. What the spec says of every state from the first reset edge on: the form of a stage (10_state.md R26, R28;
60_exceptions.md R131) and which request each stage answers (20_memory.md R45). -/
namespace Sys2Proof.Machine

/-- The form of a stage: without a response it holds status 000 and count 0 (10_state.md R28); with one it holds a
produced status, and a count of 1 to 128 on OK and 0 otherwise (10_state.md R26, 60_exceptions.md R131). -/
def Stage.legal (st : Stage) : Bool :=
  if st.valid then
    match Status.ofCode st.status with
    | some .ok => decide (1 ≤ st.count.toNat ∧ st.count.toNat ≤ 128)
    | some .absent => st.count == 0x00#8
    | some .radixFail => st.count == 0x00#8
    | some .illOp => st.count == 0x00#8
    | some .illWidth => st.count == 0x00#8
    | some .nzViolation => st.count == 0x00#8
    | none => false
  else st == .bubble

/-- From the first reset edge on, every stage has the form the spec gives it; before it, a stage may hold anything
(70_reset_and_hazards.md R152). -/
def State.stagesLegal (s : State) : Bool := !s.host.booted || s.pipe.stages.all Stage.legal

/-- The stages that hold a response, oldest first. -/
def Pipe.answers (p : Pipe) : List Stage := p.stages.reverse.filter (·.valid)

/-- The requests whose responses are on the port or in flight, oldest first. -/
def Ledger.awaited (h : Ledger) : List Request := h.shown.toList ++ h.outstanding

/-- From the first reset edge on, "each response is `EVAL` of exactly one sampled request" and responses keep request
order (20_memory.md R45): the stages that hold a response are, in order, `EVAL` of the requests the host awaits, and a
response is on the port exactly when one of them is the one shown. -/
def State.matched (s : State) : Bool :=
  !s.host.booted ||
    (s.pipe.answers == s.host.awaited.map (fun q => Stage.ofResponse (eval s.params.ptrW q)) &&
      s.host.shown.isSome == s.rsp.valid)

end Sys2Proof.Machine
end

