-- ==== Sys2Proof/Safety.lean ====
section
/-! DEFINITION. What counts as a safe state and a safe run, in the terms claims use. -/
namespace Sys2Proof.Machine

/-- "no claim about a run that reaches it holds without the premise 'no fault'" (60_exceptions.md R136). -/
def State.noFault (s : State) : Bool := s.host.faults.isEmpty

/-- A safe state: it has the form every state has from the first reset edge on, and the host has recorded no fault. -/
def State.safe (s : State) : Bool := s.host.booted && s.stagesLegal && s.matched && s.noFault

/-- A run of `k` edges that reaches a safe state. -/
def SafeRun (k : Nat) (s : State) : Prop := ∃ t, Host.Core.run Sys2Proof.core k s = .next t ∧ t.safe = true

/-- The next `k` edges from a state have `rst` = 0 (the premise of 70_reset_and_hazards.md R151). -/
def ResetFree : Nat → State → Prop
  | 0, _ => True
  | k + 1, s => s.now.port.rst = false ∧ ∀ t, step s = .next t → ResetFree k t

end Sys2Proof.Machine
end

