-- ==== Sys2Proof/Certificates/Slice0/Obligations.lean ====
section
/-! DEFINITION. The statements for the provers, from the numbered rules of the spec. Each docstring names its rules. A
response is written out in full (`responds`), and counts are said with the library's `Nat.log` and plain arithmetic, not
with the model's own functions, wherever a rule gives the value. -/
namespace Sys2Proof.Claims

open Sys2Proof.Machine

/-- The state after a request has been answered with this status and count: S[1] holds the response, S[i] the old S[i-1],
and nothing else has changed (10_state.md R29). -/
def responds (s : State) (status : StatusBits) (count : Nat) : State :=
  { s with pipe := { s1 := { valid := true, status := status, count := BitVec.ofNat 8 count },
                     later := (s.pipe.s1 :: s.pipe.later).dropLast } }

/-- p = `req_value[W-1:0]` (10_state.md R22). -/
def valueOf (s : State) (W : Width) : Nat := s.now.port.req.value.toNat % 2 ^ W.bits

/-- r = `req_radix[W-1:0]` (10_state.md R23). -/
def radixOf (s : State) (W : Width) : Nat := s.now.port.req.radix.toNat % 2 ^ W.bits

/-- A value is negative when it is signed and its top bit is set, that is, its pattern is 2^(W-1) or more
(40_datapath.md R70). -/
abbrev Negative (W : Width) (sgn : Bool) (p : Nat) : Prop := sgn = true ∧ 2 ^ (W.bits - 1) ≤ p

/-- The decimal count of the magnitude (42_decimal.md R100). -/
def decimalDigits (W : Width) (sgn : Bool) (p : Nat) : Nat :=
  Nat.log 10 (if Negative W sgn p then 2 ^ W.bits - p else p) + 1

/-- The operand type selects the width W and its value passes the check on `nz`: the request reaches the operation. -/
abbrev Accepted (s : State) (ty : OperandType) (W : Width) : Prop :=
  widthOf s.params.ptrW ty.wsel = some W ∧ (ty.nz = false ∨ valueOf s W ≠ 0)

/-- The errors all six operations share: ILL_WIDTH for a reserved `wsel`, NZ_VIOLATION for a zero value under `nz`, each
with count 0 (60_exceptions.md R132 to R134). -/
def CommonErrors (mk : OperandType → Instr) : Prop :=
  ∀ (s : State) (ty : OperandType),
    ((ty.wsel = .rsvd110 ∨ ty.wsel = .rsvd111) → exec (mk ty) s = .next (responds s 0b100#3 0)) ∧
    ∀ W, widthOf s.params.ptrW ty.wsel = some W → ty.nz = true → valueOf s W = 0 →
      exec (mk ty) s = .next (responds s 0b101#3 0)

/-- The command byte of an operand type and an op code (30_encoding.md R59). -/
def commandByte (ty : OperandType) (op : Nat) : Nat :=
  ty.nz.toNat * 0x80 + ty.sgn.toNat * 0x40 + ty.wsel.code * 0x08 + op

/-- The six operations. -/
def operations : List (OperandType → Instr) := [.bits, .oct, .hex, .dec, .radix, .radixc]

/-- The pipeline after an outcome, if it is a next state. -/
def pipeAfter : Host.Outcome State Fault Refusal → Option Pipe
  | .next t => some t.pipe
  | .fault _ => none
  | .refused _ => none

/-- The count that enters S[1] in an outcome, if it is a next state. -/
def countAfter (o : Host.Outcome State Fault Refusal) : Option Nat := (pipeAfter o).map fun p => p.s1.count.toNat

/-- The same state with other operand levels on the request port. -/
def withOperands (s : State) (value radix : Bus) : State :=
  { s with now := { s.now with port := { s.now.port with
      req := { s.now.port.req with value := value, radix := radix } } } }

/-- The same state on a platform of another byte order. -/
def withByteOrder (o : ByteOrder) (s : State) : State := { s with params := { s.params with hostByteOrder := o } }

/-- The pipeline after an edge for each of these levels, in order. -/
def afterEdges (ptrW : PtrWidth) (p : Pipe) (ports : List Port) : Pipe :=
  ports.foldl (fun q port => q.edge ptrW port) p

/-- A safe state with only OK and ABSENT in flight, whose host takes the response port in every cycle of its script and presents
only requests that are answered OK or ABSENT. -/
def WellBehaved (s : State) : Prop :=
  s.safe = true ∧ (∀ st ∈ s.pipe.stages, st.status.toNat ≤ 1) ∧
  ∀ c ∈ s.now :: s.script, c.act = .take ∧
    (c.port.reqValid = true →
      (eval s.params.ptrW c.port.req).status = .ok ∨ (eval s.params.ptrW c.port.req).status = .absent)

end Sys2Proof.Claims

section
open Sys2Proof Sys2Proof.Machine Sys2Proof.Claims

/-! ### Encoding -/

/-- Decode and encode agree in both directions over the whole command space (30_encoding.md R50 to R59). -/
def Obligations.DecodeAndEncodeAgree : Prop :=
  ∀ (c : Byte) (i : Instr), decode c = .ok i ↔ i.wellFormed = true ∧ encode i = c

/-- The illegal words are exactly the reserved ones, each rejected by its own name, and they number 64 and 48 against 144
legal ones (30_encoding.md R56). -/
def Obligations.ReservedWordsRejectedByName : Prop :=
  (∀ c : Byte, decode c = .error .illOp ↔ 6 ≤ c.toNat % 8) ∧
  (∀ c : Byte, decode c = .error .illWidth ↔ c.toNat % 8 ≤ 5 ∧ 6 ≤ c.toNat / 8 % 8) ∧
  ((List.range 256).filter fun n => decode (BitVec.ofNat 8 n) == .error .illOp).length = 64 ∧
  ((List.range 256).filter fun n => decode (BitVec.ofNat 8 n) == .error .illWidth).length = 48 ∧
  ((List.range 256).filter fun n => (decode (BitVec.ofNat 8 n)).isOk).length = 144

/-- Command bytes that the spec writes out decode to the commands they stand for (30_encoding.md R59 and the examples of
R90 to R111). -/
def Obligations.PrintedWordsDecode : Prop :=
  decode 0x43#8 = .ok (.dec ⟨false, true, .w8⟩) ∧
  decode 0x15#8 = .ok (.radixc ⟨false, false, .w32⟩) ∧
  decode 0xE2#8 = .ok (.hex ⟨true, true, .w128⟩) ∧
  decode 0x40#8 = .ok (.bits ⟨false, true, .w8⟩) ∧
  decode 0x41#8 = .ok (.oct ⟨false, true, .w8⟩) ∧
  decode 0x44#8 = .ok (.radix ⟨false, true, .w8⟩) ∧
  decode 0x2C#8 = .ok (.radix ⟨false, false, .ptr⟩)

/-- The width table (30_encoding.md R52): code by code, and `PTR_W` of each legal value. -/
def Obligations.WidthSelectTable : Prop :=
  (∀ pw, [0b000#3, 0b001#3, 0b010#3, 0b011#3, 0b100#3].map (fun k => (widthOf pw (WidthSel.ofCode k)).map Width.bits)
    = [some 8, some 16, some 32, some 64, some 128]) ∧
  (∀ pw, widthOf pw (WidthSel.ofCode 0b110#3) = none ∧ widthOf pw (WidthSel.ofCode 0b111#3) = none) ∧
  [PtrWidth.p16, .p32, .p64].map (fun pw => (widthOf pw (WidthSel.ofCode 0b101#3)).map Width.bits)
    = [some 16, some 32, some 64]

/-! ### Datapath -/

/-- The integer logarithm is exact for every base and every magnitude (40_datapath.md R75). -/
def Obligations.IlogIsExact : Prop :=
  ∀ b m : Nat, 2 ≤ b → 1 ≤ m → ∀ k, ilog b m = k ↔ b ^ k ≤ m ∧ m < b ^ (k + 1)

/-- The circuit that steps a saturating W-bit power computes ILOG on the whole domain (40_datapath.md R77). -/
def Obligations.SaturatingIlogRefinesIlog : Prop :=
  ∀ (W : Width) (b m : Nat), 2 ≤ b → b < 2 ^ W.bits → 1 ≤ m → m < 2 ^ W.bits → ilogSat W.bits b m = ilog b m

/-- The power-of-two fast paths give the count of digits in bases 2, 8 and 16 (40_datapath.md R78). -/
def Obligations.FastPathsCountDigits : Prop :=
  ∀ (W : Width) (t m : Nat), t = 1 ∨ t = 3 ∨ t = 4 → 1 ≤ m → m < 2 ^ W.bits →
    1 + ilog (2 ^ t) m = ⌈(bitlen W.bits m : ℚ) / t⌉₊ ∧ fastCount W.bits t m = ⌈(bitlen W.bits m : ℚ) / t⌉₊

/-- The leading-zero counter counts exactly the zero bits above the highest set bit (40_datapath.md R73), and the bit
length is one more than that bit's number (R74). -/
def Obligations.LeadingZerosAndBitLength : Prop :=
  ∀ W p : Nat, p < 2 ^ W →
    (∀ i, W - clz p W ≤ i → i < W → p.testBit i = false) ∧
    (p ≠ 0 → clz p W < W ∧ p.testBit (W - 1 - clz p W) = true ∧ bitlen W p = 1 + ilog 2 p) ∧
    (p = 0 → clz p W = W ∧ bitlen W p = 0) ∧ bitlen W p = W - clz p W

/-- The sign test and the magnitude extractor are exact for every pattern, MIN_W included (40_datapath.md R70, R71; the
signed reading of 00_scope.md R9). -/
def Obligations.MagnitudeIsExact : Prop :=
  ∀ (W : Width) (p : Nat) (sgn : Bool), p < 2 ^ W.bits →
    (neg p W.bits sgn = true ↔ sgn = true ∧ sval p W.bits < 0) ∧
    (neg p W.bits sgn = true →
      (mag p W.bits sgn : Int) = -sval p W.bits ∧ 1 ≤ mag p W.bits sgn ∧ mag p W.bits sgn ≤ 2 ^ (W.bits - 1)) ∧
    (neg p W.bits sgn = false → mag p W.bits sgn = p) ∧
    mag (2 ^ (W.bits - 1)) W.bits true = 2 ^ (W.bits - 1)

/-- The MIN digit table (40_datapath.md R80): every printed row, every radix above 2^(W-1), the 8-bit ranges, and the radices
that never reach the general path. -/
def Obligations.MinDigitTable : Prop :=
  (minDigRows.map Prod.fst = (List.range 35).map (· + 2) ∧
    ∀ row ∈ minDigRows, row.2 = [8, 16, 32, 64, 128].map fun W => minDig W row.1) ∧
  (∀ (W : Width) (b : Nat), 2 ^ (W.bits - 1) < b → minDig W.bits b = 1) ∧
  (∀ b, (6 ≤ b → b ≤ 11 → minDig 8 b = 3) ∧ (12 ≤ b → b ≤ 128 → minDig 8 b = 2) ∧ (129 ≤ b → minDig 8 b = 1)) ∧
  (∀ r, dispatch r = .gen ↔ r ≠ 2 ∧ r ≠ 8 ∧ r ≠ 10 ∧ r ≠ 16)

/-- The fixed negative counts (41_pow2_counts.md R93): the table, the ceilings it comes from, the MIN digit table's rows,
and, for every negative value, the count of its pattern read as an unsigned number. -/
def Obligations.FixedNegativeCounts : Prop :=
  ([Width.w8, .w16, .w32, .w64, .w128].map fun W => (W.bits, negOct W, negHex W))
    = [(8, 3, 2), (16, 6, 4), (32, 11, 8), (64, 22, 16), (128, 43, 32)] ∧
  (∀ W : Width, negOct W = (W.bits + 2) / 3 ∧ negHex W = W.bits / 4 ∧ minDig W.bits 2 = W.bits ∧
    minDig W.bits 8 = negOct W ∧ minDig W.bits 16 = negHex W) ∧
  (∀ (s : State) (ty : OperandType) (W : Width), Accepted s ty W → Negative W ty.sgn (valueOf s W) →
    exec (.bits ty) s = .next (responds s 0b000#3 W.bits) ∧
    exec (.oct ty) s = .next (responds s 0b000#3 (negOct W)) ∧
    exec (.hex ty) s = .next (responds s 0b000#3 (negHex W)) ∧
    ∀ op ∈ [Instr.bits, Instr.oct, Instr.hex], exec (op ty) s = exec (op { ty with sgn := false }) s)

/-- Every OK count lies in 1..W, and 128 is reached as the rule says (40_datapath.md R79, with 10_state.md R26). -/
def Obligations.CountRange : Prop :=
  (∀ (pw : PtrWidth) (q : Request), (eval pw q).status = .ok →
    1 ≤ (eval pw q).count.toNat ∧ (eval pw q).count.toNat ≤ (evalWidth pw (cmdWsel q.cmd)).bits ∧
    (evalWidth pw (cmdWsel q.cmd)).bits ≤ 128) ∧
  (∀ (pw : PtrWidth) (ty : OperandType) (value radix : Bus), ty.wsel = .w128 → 2 ^ 127 ≤ value.toNat →
    eval pw { cmd := encode (.bits ty), value := value, radix := radix } = { status := .ok, count := 128#8 })

/-- `EVAL` checks in its order, for every command word, value and radix; codes 110 and 111 are never produced, and every
code but OK has count 0 (60_exceptions.md R131, R134). -/
def Obligations.EvalChecksInOrder : Prop :=
  ∀ (pw : PtrWidth) (q : Request),
    (6 ≤ q.cmd.toNat % 8 → eval pw q = { status := .illOp, count := 0#8 }) ∧
    (q.cmd.toNat % 8 ≤ 5 → 6 ≤ q.cmd.toNat / 8 % 8 → eval pw q = { status := .illWidth, count := 0#8 }) ∧
    (∀ i, decode q.cmd = .ok i → ∀ W, widthOf pw i.ty.wsel = some W → i.ty.nz = true → q.value.toNat % 2 ^ W.bits = 0 →
      eval pw q = { status := .nzViolation, count := 0#8 }) ∧
    (eval pw q).status.code.toNat ≤ 5 ∧ ((eval pw q).status ≠ .ok → (eval pw q).count = 0#8)

/-! ### The six operations -/

/-- CNT.BITS (41_pow2_counts.md R90): it always answers; the full width for a negative value, else 1 + floor(log2 p). -/
def Obligations.CntBitsRuns : Prop :=
  CommonErrors .bits ∧ (∀ ty, (encode (.bits ty)).toNat = commandByte ty 0x00) ∧
  ∀ (s : State) (ty : OperandType) (W : Width), Accepted s ty W →
    exec (.bits ty) s =
      .next (responds s 0b000#3 (if Negative W ty.sgn (valueOf s W) then W.bits else Nat.log 2 (valueOf s W) + 1)) ∧
    exec (.bits ty) s = .next (responds s 0b000#3 (max 1 (W.bits - clz (valueOf s W) W.bits)))

/-- CNT.OCT (41_pow2_counts.md R91): it always answers; ceil(W/3) for a negative value, else the base-8 digits. -/
def Obligations.CntOctRuns : Prop :=
  CommonErrors .oct ∧ (∀ ty, (encode (.oct ty)).toNat = commandByte ty 0x01) ∧
  ∀ (s : State) (ty : OperandType) (W : Width), Accepted s ty W →
    exec (.oct ty) s =
      .next (responds s 0b000#3
        (if Negative W ty.sgn (valueOf s W) then (W.bits + 2) / 3 else Nat.log 8 (valueOf s W) + 1)) ∧
    exec (.oct ty) s = .next (responds s 0b000#3 ((max 1 (bitlen W.bits (valueOf s W)) + 2) / 3))

/-- CNT.HEX (41_pow2_counts.md R92): it always answers; W/4 for a negative value, else the base-16 digits. -/
def Obligations.CntHexRuns : Prop :=
  CommonErrors .hex ∧ (∀ ty, (encode (.hex ty)).toNat = commandByte ty 0x02) ∧
  ∀ (s : State) (ty : OperandType) (W : Width), Accepted s ty W →
    exec (.hex ty) s =
      .next (responds s 0b000#3
        (if Negative W ty.sgn (valueOf s W) then W.bits / 4 else Nat.log 16 (valueOf s W) + 1)) ∧
    exec (.hex ty) s = .next (responds s 0b000#3 ((max 1 (bitlen W.bits (valueOf s W)) + 3) / 4))

/-- CNT.DEC (42_decimal.md R100): it always answers; the decimal digits of the magnitude. -/
def Obligations.CntDecRuns : Prop :=
  CommonErrors .dec ∧ (∀ ty, (encode (.dec ty)).toNat = commandByte ty 0x03) ∧
  ∀ (s : State) (ty : OperandType) (W : Width), Accepted s ty W →
    exec (.dec ty) s = .next (responds s 0b000#3 (decimalDigits W ty.sgn (valueOf s W)))

/-- CNT.RADIX (43_radix.md R110): it always answers; RADIX_FAIL for r < 2; else the decimal count of the magnitude for
r = 10, the base-r digits of 2^(W-1) for another r and a negative value, and the base-r digits of p otherwise. -/
def Obligations.CntRadixRuns : Prop :=
  CommonErrors .radix ∧ (∀ ty, (encode (.radix ty)).toNat = commandByte ty 0x04) ∧
  ∀ (s : State) (ty : OperandType) (W : Width), Accepted s ty W →
    (radixOf s W < 2 → exec (.radix ty) s = .next (responds s 0b010#3 0)) ∧
    (2 ≤ radixOf s W → exec (.radix ty) s = .next (responds s 0b000#3
      (if radixOf s W = 10 then decimalDigits W ty.sgn (valueOf s W)
       else Nat.log (radixOf s W) (if Negative W ty.sgn (valueOf s W) then 2 ^ (W.bits - 1) else valueOf s W) + 1)))

/-- CNT.RADIXC (43_radix.md R111): it always answers; ABSENT for r < 2, else exactly what CNT.RADIX answers, which is a count
with status OK. -/
def Obligations.CntRadixcRuns : Prop :=
  CommonErrors .radixc ∧ (∀ ty, (encode (.radixc ty)).toNat = commandByte ty 0x05) ∧
  ∀ (s : State) (ty : OperandType) (W : Width), Accepted s ty W →
    (radixOf s W < 2 → exec (.radixc ty) s = .next (responds s 0b001#3 0)) ∧
    (2 ≤ radixOf s W → exec (.radixc ty) s = exec (.radix ty) s ∧
      exec (.radixc ty) s = .next (responds s 0b000#3
      (if radixOf s W = 10 then decimalDigits W ty.sgn (valueOf s W)
       else Nat.log (radixOf s W) (if Negative W ty.sgn (valueOf s W) then 2 ^ (W.bits - 1) else valueOf s W) + 1)))

/-- The frame of all six operations: one response enters S[1], every other stage moves on, and nothing else changes: not the
parameters, not the ports, not the host's data, not the count of free draws (10_state.md R29; 41_pow2_counts.md R90 "No other state is written"). -/
def Obligations.OperationsWriteOnlyThePipeline : Prop :=
  ∀ (i : Instr) (s : State), ∃ t, exec i s = .next t ∧ t.params = s.params ∧ t.now = s.now ∧ t.script = s.script ∧
    t.host = s.host ∧ t.draws = s.draws ∧ t.pipe.s1.valid = true ∧ t.pipe.later = (s.pipe.s1 :: s.pipe.later).dropLast ∧
    t.pipe.lat = s.pipe.lat

/-- The four dispatch equalities, for both radix operations (43_radix.md R112). -/
def Obligations.DispatchEqualities : Prop :=
  ∀ (s : State) (ty : OperandType) (W : Width), Accepted s ty W →
    ∀ op ∈ [Instr.radix, Instr.radixc],
      (radixOf s W = 2 → exec (op ty) s = exec (.bits ty) s) ∧ (radixOf s W = 8 → exec (op ty) s = exec (.oct ty) s) ∧
      (radixOf s W = 10 → exec (op ty) s = exec (.dec ty) s) ∧ (radixOf s W = 16 → exec (op ty) s = exec (.hex ty) s)

/-- The count of CNT.RADIX does not increase with the radix, but for a negative value counted in radix 10; and at radix 10
against 11 the 8-bit values that break the law are exactly -1 to -99 (43_radix.md R113, 90_conflicts.md C1). -/
def Obligations.CountFallsWithRadix : Prop :=
  (∀ (s : State) (ty : OperandType) (W : Width) (radix1 radix2 : Bus), Accepted s ty W →
    2 ≤ radix1.toNat % 2 ^ W.bits → radix1.toNat % 2 ^ W.bits < radix2.toNat % 2 ^ W.bits →
    ¬(Negative W ty.sgn (valueOf s W) ∧ radix1.toNat % 2 ^ W.bits = 10) →
    ∃ c1 c2, countAfter (exec (.radix ty) (withOperands s s.now.port.req.value radix1)) = some c1 ∧
      countAfter (exec (.radix ty) (withOperands s s.now.port.req.value radix2)) = some c2 ∧ c2 ≤ c1) ∧
  (∀ p, 128 ≤ p → p < 256 → (radixCount .w8 true p 10 < radixCount .w8 true p 11 ↔ 256 - p ≤ 99)) ∧
  radixCount .w8 true 255 10 = 1 ∧ radixCount .w8 true 255 11 = 3

/-- The crossing-power law (43_radix.md R114, 90_conflicts.md C2): for r^k up to the type's largest non-negative value, the
value r^k - 1 has k digits and the value r^k has k + 1. -/
def Obligations.CrossingPowers : Prop :=
  ∀ (s : State) (ty : OperandType) (W : Width) (k : Nat), widthOf s.params.ptrW ty.wsel = some W →
    2 ≤ radixOf s W → 1 ≤ k →
    radixOf s W ^ k ≤ (if ty.sgn = true then 2 ^ (W.bits - 1) - 1 else 2 ^ W.bits - 1) →
    (valueOf s W = radixOf s W ^ k - 1 → exec (.radix ty) s = .next (responds s 0b000#3 k)) ∧
    (valueOf s W = radixOf s W ^ k → exec (.radix ty) s = .next (responds s 0b000#3 (k + 1)))

/-- On every radix but 10, a negative value is counted from the MIN magnitude of its width, not from its own magnitude and not
from its bit pattern: two negative values of one width have one count (43_radix.md R115). -/
def Obligations.NegativesUseMinMagnitude : Prop :=
  (∀ (s : State) (ty : OperandType) (W : Width), Accepted s ty W → Negative W ty.sgn (valueOf s W) →
    2 ≤ radixOf s W → radixOf s W ≠ 10 →
    exec (.radix ty) s = .next (responds s 0b000#3 (Nat.log (radixOf s W) (2 ^ (W.bits - 1)) + 1)) ∧
    ∀ value : Bus, 2 ^ (W.bits - 1) ≤ value.toNat % 2 ^ W.bits →
      pipeAfter (exec (.radix ty) (withOperands s value s.now.port.req.radix)) = pipeAfter (exec (.radix ty) s)) ∧
  radixCount .w8 true 255 3 = 5 ∧ radixCount .w8 false 255 3 = 6

/-- The decimal count ignores the sign, for every signed value but MIN_W (42_decimal.md R101): the value -v, whose pattern is
`(2^W - p) mod 2^W`, gives the same response. -/
def Obligations.DecimalSignSymmetry : Prop :=
  ∀ (s : State) (ty : OperandType) (W : Width) (value : Bus), widthOf s.params.ptrW ty.wsel = some W → ty.sgn = true →
    valueOf s W ≠ 2 ^ (W.bits - 1) → value.toNat % 2 ^ W.bits = (2 ^ W.bits - valueOf s W) % 2 ^ W.bits →
    (pipeAfter (exec (.dec ty) s)).isSome = true ∧
    pipeAfter (exec (.dec ty) (withOperands s value s.now.port.req.radix)) = pipeAfter (exec (.dec ty) s)

/-- Decimal digits at the width limits (42_decimal.md R102, the table). -/
def Obligations.DecimalLimits : Prop :=
  ([Width.w8, .w16, .w32, .w64, .w128].map fun W => (decCount W false (2 ^ W.bits - 1),
      decCount W true (2 ^ (W.bits - 1) - 1), decCount W true (2 ^ (W.bits - 1))))
    = [(3, 3, 3), (5, 5, 5), (10, 10, 10), (20, 19, 19), (39, 39, 39)]

/-- The laws of the power-of-two operations (41_pow2_counts.md R94, its six items). -/
def Obligations.Pow2Laws : Prop :=
  (∀ (s : State) (ty : OperandType) (W : Width), Accepted s ty W →
    ∃ b o h, countAfter (exec (.bits ty) s) = some b ∧ countAfter (exec (.oct ty) s) = some o ∧
      countAfter (exec (.hex ty) s) = some h ∧
      (1 ≤ b ∧ b ≤ W.bits) ∧ (1 ≤ o ∧ o ≤ W.bits) ∧ (1 ≤ h ∧ h ≤ W.bits) ∧ o = (b + 2) / 3 ∧ h = (b + 3) / 4 ∧
      (valueOf s W = 0 → b = 1 ∧ o = 1 ∧ h = 1)) ∧
  (∀ (s : State) (ty : OperandType) (W : Width), widthOf s.params.ptrW ty.wsel = some W → valueOf s W ≠ 0 →
    ∀ op ∈ [Instr.bits, Instr.oct, Instr.hex], exec (op { ty with nz := true }) s = exec (op { ty with nz := false }) s) ∧
  bitsCount .w8 true 1 = 1 ∧ bitsCount .w8 true 255 = 8

/-- The non-zero flag changes no result for a non-zero value, with either signedness, in any of the six operations, and a zero
value breaks its promise (30_encoding.md R54, 60_exceptions.md R132). -/
def Obligations.NonZeroFlag : Prop :=
  ∀ op ∈ operations, ∀ (s : State) (sgn : Bool) (w : WidthSel) (W : Width), widthOf s.params.ptrW w = some W →
    (valueOf s W ≠ 0 → exec (op ⟨true, sgn, w⟩) s = exec (op ⟨false, sgn, w⟩) s) ∧
    (valueOf s W = 0 → exec (op ⟨true, sgn, w⟩) s = .next (responds s 0b101#3 0))

/-- With `wsel` = 101 every operation behaves as with the code whose width is `PTR_W` (30_encoding.md R52). -/
def Obligations.PointerWidthIsAnAlias : Prop :=
  ∀ op ∈ operations, ∀ (s : State) (nz sgn : Bool),
    (s.params.ptrW = .p16 → exec (op ⟨nz, sgn, .ptr⟩) s = exec (op ⟨nz, sgn, .w16⟩) s) ∧
    (s.params.ptrW = .p32 → exec (op ⟨nz, sgn, .ptr⟩) s = exec (op ⟨nz, sgn, .w32⟩) s) ∧
    (s.params.ptrW = .p64 → exec (op ⟨nz, sgn, .ptr⟩) s = exec (op ⟨nz, sgn, .w64⟩) s)

/-- Only the low W bits of the operands are read, and the four operations without a radix read no bit of `req_radix`
(10_state.md R22, R23; 30_encoding.md R55). -/
def Obligations.OnlyLowBitsAreRead : Prop :=
  ∀ (i : Instr) (s : State) (W : Width) (value radix : Bus), widthOf s.params.ptrW i.ty.wsel = some W →
    value.toNat % 2 ^ W.bits = valueOf s W →
    (radix.toNat % 2 ^ W.bits = radixOf s W ∨ i = .bits i.ty ∨ i = .oct i.ty ∨ i = .hex i.ty ∨ i = .dec i.ty) →
    (pipeAfter (exec i s)).isSome = true ∧ pipeAfter (exec i (withOperands s value radix)) = pipeAfter (exec i s)

/-! ### The machine -/

/-- A step runs the decoded instruction: when a request is sampled and its command word decodes to `i`, the step is `exec i`
with the host's cycle closed around it (10_state.md R21, R29; the host agent's part is the model's, log 3, log 10). Before the
first reset edge the stages it leaves are drawn anew (`settle`; 70_reset_and_hazards.md R152, log 9). -/
def Obligations.StepRunsDecodedCommand : Prop :=
  ∀ (s : State) (i : Instr), s.now.port.rst = false → s.now.port.reqValid = true → decode s.now.port.req.cmd = .ok i →
    step s = mapNext (fun t => closeEdge s (settle s t)) (exec i s) ∧
    ∃ t, exec i s = .next t ∧ step s = .next (closeEdge s (settle s t)) ∧ (s.host.booted = true → settle s t = t)

/-- A command word placed on the request port is the one the next step samples, with the operands that stand there and nothing
else changed (30_encoding.md R50; the model's `withFetchWord`, log 15). -/
def Obligations.PlacedWordIsSampled : Prop :=
  ∀ (s : State) (w : Nat), w < 256 →
    let s' := s.withFetchWord 8 w
    s'.now.port.sampled = some { s.now.port.req with cmd := BitVec.ofNat 8 w } ∧
    s'.params = s.params ∧ s'.pipe = s.pipe ∧ s'.script = s.script ∧ s'.host = s.host ∧ s'.now.act = s.now.act ∧
    s'.draws = s.draws ∧
    ∀ i, decodeTableWord 8 w = some i → step s' = mapNext (fun t => closeEdge s' (settle s' t)) (exec i s')

/-- The step relation (10_state.md R29), where the pipeline's contents count (from the first reset edge on, or at that edge;
70_reset_and_hazards.md R152): every step is one edge of the pipeline, with `EVAL` of the sampled request entering S[1]. It ties the decoder, the dispatch and the six meanings to the pseudocode of 60_exceptions.md R134. Where the host waits for
ever there is no edge (the model's, log 7). -/
def Obligations.StepIsTheStepRelation : Prop :=
  ∀ s : State, s.stuck = false → ∃ t, step s = .next t ∧
    (s.now.port.rst = true → t.pipe.stages = List.replicate s.pipe.lat { valid := false, status := 0b000#3, count := 0x00#8 }) ∧
    (s.host.booted = true → s.now.port.rst = false → s.now.port.reqValid = true →
      t.pipe.stages = { valid := true, status := (eval s.params.ptrW s.now.port.req).status.code,
                        count := (eval s.params.ptrW s.now.port.req).count } :: s.pipe.stages.dropLast) ∧
    (s.host.booted = true → s.now.port.rst = false → s.now.port.reqValid = false →
      t.pipe.stages = { valid := false, status := 0b000#3, count := 0x00#8 } :: s.pipe.stages.dropLast)

/-- Reserved command words are answered ILL_OP or ILL_WIDTH with count 0, whatever the operands (60_exceptions.md R133). Closing
the cycle is the model's (`closeEdge`: the host's record and its next cycle, log 3, log 4, log 10), and so is the free draw that
replaces the stages before the first reset edge (`settle`, log 9). -/
def Obligations.ReservedWordsAnswered : Prop :=
  ∀ s : State, s.now.port.rst = false → s.now.port.reqValid = true →
    (6 ≤ s.now.port.req.cmd.toNat % 8 →
      step s = .next (closeEdge s (settle s (responds s 0b011#3 0)))) ∧
    (s.now.port.req.cmd.toNat % 8 ≤ 5 → 6 ≤ s.now.port.req.cmd.toNat / 8 % 8 →
      step s = .next (closeEdge s (settle s (responds s 0b100#3 0))))

/-- A reset edge, from every state, power-on included: every stage is cleared, the request on the port is not sampled, the
requests in flight are discarded, and from then on the two whole-machine invariants hold (70_reset_and_hazards.md R150, R157;
10_state.md R36; the host's data are the model's, log 11, log 22). -/
def Obligations.ResetEdge : Prop :=
  ∀ s : State, s.now.port.rst = true → ∃ t, step s = .next t ∧
    (∀ st ∈ t.pipe.stages, st = { valid := false, status := 0b000#3, count := 0x00#8 }) ∧ t.pipe.lat = s.pipe.lat ∧
    t.rsp = { valid := false, status := 0b000#3, count := 0x00#8 } ∧ t.host.outstanding = [] ∧ t.host.shown = none ∧
    t.host.booted = true ∧ t.stagesLegal = true ∧ t.matched = true

/-- The reset state holds the reset values (10_state.md R36), with the spec's default parameters (00_scope.md R6; log 1,
log 2). -/
def Obligations.ResetStateValues : Prop :=
  State.reset.pipe.stages = [{ valid := false, status := 0b000#3, count := 0x00#8 }] ∧
  State.reset.rsp = { valid := false, status := 0b000#3, count := 0x00#8 } ∧
  State.reset.pipe.lat = 1 ∧ State.reset.params.ptrW.width.bits = 64

/-- The reset state meets both whole-machine invariants (its host data are the model's choice, log 22). -/
def Obligations.ResetStateMeetsInvariants : Prop :=
  State.reset.stagesLegal = true ∧ State.reset.matched = true

/-- Every step keeps the form of the stages, from the first reset edge on: a stage without a response holds 000 and 0; one with a response holds a produced
status, a count of 1 to 128 on OK and 0 otherwise (10_state.md R26, R28; 60_exceptions.md R131). -/
def Obligations.StepsKeepStagesLegal : Prop :=
  ∀ s t : State, s.stagesLegal = true → step s = .next t →
    t.stagesLegal = true ∧
    (t.host.booted = true →
      (t.rsp.valid = false → t.rsp.status = 0b000#3 ∧ t.rsp.count = 0x00#8) ∧
      (t.rsp.valid = true → t.rsp.status = 0b000#3 → 1 ≤ t.rsp.count.toNat ∧ t.rsp.count.toNat ≤ 128) ∧
      (t.rsp.valid = true → t.rsp.status ≠ 0b000#3 → t.rsp.status.toNat ≤ 5 ∧ t.rsp.count = 0x00#8))

/-- Every step keeps the match of stages and requests: each response in the pipeline is `EVAL` of exactly one sampled request,
in request order, and the one on the port is that of the request the host has as shown (20_memory.md R45; the host's queue is the model's,
log 11). -/
def Obligations.StepsKeepResponsesMatched : Prop :=
  ∀ s t : State, s.matched = true → step s = .next t →
    t.matched = true ∧
    (t.host.booted = true → t.rsp.valid = true → ∃ q, t.host.shown = some q ∧
      t.rsp = { valid := true, status := (eval t.params.ptrW q).status.code, count := (eval t.params.ptrW q).count })

/-- No step changes a parameter or the number of stages (00_scope.md R6, 10_state.md R33, for `PTR_W` and `LAT`). That
`HOST_BYTE_ORDER` (20_memory.md R41) is fixed beside them is the model's choice (log 13). -/
def Obligations.ParametersAreFixed : Prop :=
  ∀ s t : State, step s = .next t → t.params = s.params ∧ t.pipe.lat = s.pipe.lat

/-- Latency (70_reset_and_hazards.md R151): the response to a sampled request is on the port after `LAT` edges, its own
included, if none of them is a reset; and those edges all happen. Before the first reset edge no response counts (R152), hence the
premise. -/
def Obligations.ResponseAfterLatEdges : Prop :=
  ∀ s : State, s.host.booted = true → s.now.port.reqValid = true → ResetFree s.pipe.lat s →
    ∃ t, Host.Core.run Sys2Proof.core s.pipe.lat s = .next t ∧
      t.rsp = { valid := true, status := (eval s.params.ptrW s.now.port.req).status.code,
                count := (eval s.params.ptrW s.now.port.req).count }

/-- The pipeline forgets: after `LAT` edges of the step relation its contents depend on the levels at those edges alone
(10_state.md R35). -/
def Obligations.PipelineForgetsOlderRequests : Prop :=
  ∀ (pw : PtrWidth) (p q : Pipe) (ports : List Port), p.lat = q.lat → ports.length = p.lat →
    afterEdges pw p ports = afterEdges pw q ports

/-- No response depends on an earlier one: what enters S[1] depends on the levels at that edge alone (00_scope.md R11,
60_exceptions.md R137), from the first reset edge on (R152). A host that waits for ever is the model's (log 7). -/
def Obligations.ResponseIgnoresHistory : Prop :=
  ∀ s s' : State, s.now.port = s'.now.port → s.params.ptrW = s'.params.ptrW →
    s.host.booted = true → s'.host.booted = true → s.stuck = false → s'.stuck = false →
    ∃ t t', step s = .next t ∧ step s' = .next t' ∧ t.pipe.s1 = t'.pipe.s1

/-- Where no request is sampled, the request inputs may hold any levels (10_state.md R21): the step is the same, up to the
levels themselves where the host goes on driving them (the model's, log 7). -/
def Obligations.RequestInputsIgnoredWithoutRequest : Prop :=
  ∀ (s : State) (req : Request), s.now.port.rst = true ∨ s.now.port.reqValid = false →
    let s' : State := { s with now := { s.now with port := { s.now.port with req := req } } }
    step s' = mapNext (fun t => if s.repeats then { t with now := s'.now } else t) (step s)

/-- No result depends on the host's byte order (20_memory.md R41). -/
def Obligations.ByteOrderHasNoEffect : Prop :=
  ∀ (s : State) (o : ByteOrder), step (withByteOrder o s) = mapNext (withByteOrder o) (step s)

/-- The only stop: a step stops exactly when the host waits for a response that cannot come, and it is never refused
(93_implementation_defined.md section 2, 70_reset_and_hazards.md R157; the waiting host is the model's, log 7). Before
the first reset edge no wait is hopeless, for any response may be shown (R152). -/
def Obligations.OnlyAWaitingHostIsStuck : Prop :=
  ∀ s : State,
    (step s = .fault .hostStuck ↔ s.host.booted = true ∧ s.now.act = .await ∧ s.now.port.rst = false ∧ s.now.port.reqValid = false ∧
      ∀ st ∈ s.pipe.stages, st.valid = false) ∧
    (step s ≠ .fault .hostStuck → ∃ t, step s = .next t)

/-- What the host does with a response it takes (60_exceptions.md R136): OK and ABSENT are results, the four others are
faults. The record and the cycle it falls in are the model's (log 6, log 10). -/
def Obligations.TakenResponses : Prop :=
  ∀ s : State, s.host.booted = true → s.now.act ≠ .leave → s.rsp.valid = true → ∃ t, step s = .next t ∧
    (s.rsp.status = 0b000#3 → t.host.faults = s.host.faults ∧
      t.host.calls = { request := s.host.shown, result := .count s.rsp.count } :: s.host.calls) ∧
    (s.rsp.status = 0b001#3 → t.host.faults = s.host.faults ∧
      t.host.calls = { request := s.host.shown, result := .absent } :: s.host.calls) ∧
    (s.rsp.status = 0b010#3 → t.host.calls = s.host.calls ∧ t.host.faults = .radixFail :: s.host.faults) ∧
    (s.rsp.status = 0b011#3 → t.host.calls = s.host.calls ∧ t.host.faults = .illOp :: s.host.faults) ∧
    (s.rsp.status = 0b100#3 → t.host.calls = s.host.calls ∧ t.host.faults = .illWidth :: s.host.faults) ∧
    (s.rsp.status = 0b101#3 → t.host.calls = s.host.calls ∧ t.host.faults = .nzViolation :: s.host.faults)

/-- A response not taken in its one cycle is lost, a fault of the host and never a result (70_reset_and_hazards.md R156); and
where no response is shown, the host records nothing (10_state.md R28). -/
def Obligations.LostResponses : Prop :=
  (∀ s : State, s.host.booted = true → s.now.act = .leave → s.rsp.valid = true → ∃ t, step s = .next t ∧
    t.host.faults = .lostResponse :: s.host.faults ∧ t.host.calls = s.host.calls) ∧
  (∀ s : State, s.rsp.valid = false → s.stuck = false → ∃ t, step s = .next t ∧
    t.host.faults = s.host.faults ∧ t.host.calls = s.host.calls)

/-- Before the first reset edge no response counts: acting on one is a fault, and it is never a result
(70_reset_and_hazards.md R152). From power-on, whatever the stages hold, one reset edge clears them. -/
def Obligations.NothingCountsBeforeReset : Prop :=
  (∀ s t : State, s.host.booted = false → step s = .next t → t.host.calls = s.host.calls ∧
    (s.rsp.valid = true → s.now.act ≠ .leave → t.host.faults = .actedBeforeReset :: s.host.faults) ∧
    (s.rsp.valid = false ∨ s.now.act = .leave → t.host.faults = s.host.faults)) ∧
  (∀ (params : Params) (n : Nat) (now : Cycle) (script : List Cycle), now.port.rst = true → now.act = .leave →
    ∃ t, step (State.powerOn params n now script) = .next t ∧ t.safe = true ∧ t.pipe.lat = n + 1 ∧ t.params = params)

/-- A recorded fault is never cleared, and one step records at most one (60_exceptions.md R136). -/
def Obligations.HostFaultsAreNeverCleared : Prop :=
  ∀ s t : State, step s = .next t → ∃ new, t.host.faults = new ++ s.host.faults ∧ new.length ≤ 1

/-- The host's count of outstanding requests (70_reset_and_hazards.md R157): the requests in flight, one for each response in
the stages before S[LAT]; a reset edge sets it to zero. -/
def Obligations.OutstandingCountsRequestsInFlight : Prop :=
  (∀ s : State, s.host.booted = true → s.matched = true →
    s.host.outstanding.length = (s.pipe.stages.dropLast.filter (·.valid)).length) ∧
  (∀ s t : State, step s = .next t → s.now.port.rst = true → t.host.outstanding = [])

/-- A run ends (70_reset_and_hazards.md R159): once the host presents no more requests, `LAT` - 1 edges without reset end the
run, and so does a reset edge (the host after its script is the model's, log 4, log 19). -/
def Obligations.RunEndsAfterLastRequest : Prop :=
  (∀ s : State, s.host.booted = true → s.matched = true →
    (∀ c ∈ s.now :: s.script, c.port.reqValid = false ∧ c.port.rst = false ∧ c.act ≠ .await) →
    ∃ t, Host.Core.run Sys2Proof.core (s.pipe.lat - 1) s = .next t ∧ t.runEnded = true) ∧
  (∀ s : State, (∀ c ∈ s.now :: s.script, c.port.reqValid = false) → s.now.port.rst = true →
    ∃ t, step s = .next t ∧ t.runEnded = true)

/-- Good behaviour is an invariant of the step, and with it no fault is recorded and nothing stops: a host that takes every
response and sends only requests that are answered OK or ABSENT runs safely, resets included (60_exceptions.md R136,
70_reset_and_hazards.md R156: "no claim about a run that reaches it holds without the premise 'no fault'"). Past the end of its
script the claim rests on the model's host, which then presents nothing and takes what is shown (DESIGN CHOICE, log 4). -/
def Obligations.WellBehavedHostRunsSafely : Prop :=
  ∀ s : State, WellBehaved s → (∃ t, step s = .next t ∧ WellBehaved t) ∧ ∀ k, SafeRun k s

/-- The assembler (30_encoding.md R60): a command assembles exactly when its literals are in range, and then the request
carries its byte, the W-bit pattern that reads as the literal, and the radix, with zeros above. A hexadecimal literal is read as
its number (DEDUCED, log 14). -/
def Obligations.AssemblerPlacesOperands : Prop :=
  ∀ (pw : PtrWidth) (i : Instr) (v : Int) (radix : Option Nat) (W : Width), widthOf pw i.ty.wsel = some W →
    ((assemble pw (.cnt i v radix)).isSome = true ↔
      ((i.ty.sgn = true → -(2 ^ (W.bits - 1) : Int) ≤ v ∧ v ≤ 2 ^ (W.bits - 1) - 1) ∧
       (i.ty.sgn = false → 0 ≤ v ∧ v ≤ 2 ^ W.bits - 1) ∧ (i.ty.nz = true → v ≠ 0) ∧
       (i = .radix i.ty ∨ i = .radixc i.ty → ∃ r, radix = some r ∧ r ≤ 2 ^ W.bits - 1) ∧
       (i = .bits i.ty ∨ i = .oct i.ty ∨ i = .hex i.ty ∨ i = .dec i.ty → radix = none))) ∧
    (∀ q, assemble pw (.cnt i v radix) = some q →
      decode q.cmd = .ok i ∧ q.value.toNat < 2 ^ W.bits ∧
      (i.ty.sgn = true → sval q.value.toNat W.bits = v) ∧ (i.ty.sgn = false → (q.value.toNat : Int) = v) ∧
      q.radix.toNat = radix.getD 0)

/-- Until the first reset edge every stage field is a free value in every cycle (70_reset_and_hazards.md R152, 10_state.md R36):
at power-on, and after each edge without reset, whatever was in the stages and whatever request was sampled. The draws and
their numbers are the model's (log 9); the statement holds whatever they are. -/
def Obligations.UnresetStagesAreFree : Prop :=
  (∀ (params : Params) (n : Nat) (now : Cycle) (script : List Cycle) (i : Nat), i < n + 1 →
    (State.powerOn params n now script).pipe.stages[i]? = some
      { valid := Config.powerOnValid 0 (i + 1), status := Config.powerOnStatus 0 (i + 1),
        count := Config.powerOnCount 0 (i + 1) }) ∧
  (∀ s : State, s.host.booted = false → s.now.port.rst = false → ∃ t, step s = .next t ∧
    t.host.booted = false ∧ t.pipe.lat = s.pipe.lat ∧ t.draws = s.draws + 1 ∧
    ∀ i, i < s.pipe.lat → t.pipe.stages[i]? = some
      { valid := Config.powerOnValid s.draws (i + 1), status := Config.powerOnStatus s.draws (i + 1),
        count := Config.powerOnCount s.draws (i + 1) })

end
end

