-- ==== Sys2Proof/Laws/Datapath.lean ====
section
/-! SUPPORT. The small lemmas of the datapath's definitions: one equation per branch, and the loops one turn at a time. -/
namespace Sys2Proof.Machine

theorem neg_unsigned (p W : Nat) : neg p W false = false := rfl

theorem mag_of_neg {p W : Nat} {sgn : Bool} (h : neg p W sgn = true) : mag p W sgn = 2 ^ W - p := by simp [mag, h]

theorem mag_of_not_neg {p W : Nat} {sgn : Bool} (h : neg p W sgn = false) : mag p W sgn = p := by simp [mag, h]

theorem clz_succ_of_set {p i : Nat} (h : p.testBit i = true) : clz p (i + 1) = 0 := by simp [clz, h]

theorem clz_succ_of_clear {p i : Nat} (h : p.testBit i = false) : clz p (i + 1) = clz p i + 1 := by simp [clz, h]

/-- The counter never counts more bits than it looks at. -/
theorem clz_le (p W : Nat) : clz p W ≤ W := by
  induction W with
  | zero => simp [clz]
  | succ n ih =>
    unfold clz
    split
    · exact Nat.zero_le _
    · exact Nat.succ_le_succ ih

theorem ilogUp_of_le {b m fuel pw : Nat} (h : pw ≤ m) : ilogUp b m (fuel + 1) pw = ilogUp b m fuel (pw * b) + 1 := by
  simp [ilogUp, h]

theorem ilogUp_of_lt {b m fuel pw : Nat} (h : m < pw) : ilogUp b m (fuel + 1) pw = 0 := by
  simp [ilogUp, Nat.not_le.mpr h]

theorem ilogSatUp_of_le {W b m fuel pw : Nat} (h : pw ≤ m) :
    ilogSatUp W b m (fuel + 1) pw = ilogSatUp W b m fuel (satMul W pw b) + 1 := by simp [ilogSatUp, h]

theorem ilogSatUp_of_lt {W b m fuel pw : Nat} (h : m < pw) : ilogSatUp W b m (fuel + 1) pw = 0 := by
  simp [ilogSatUp, Nat.not_le.mpr h]

/-- A saturating product is exact as long as it stays below the clamp (40_datapath.md R77). -/
theorem satMul_of_lt {W x y : Nat} (h : x * y < 2 ^ W) : satMul W x y = x * y := Nat.min_eq_left (Nat.le_of_lt h)

/-- A product that reaches 2^W is held there (40_datapath.md R77). -/
theorem satMul_of_ge {W x y : Nat} (h : 2 ^ W ≤ x * y) : satMul W x y = 2 ^ W := Nat.min_eq_right h

@[simp] theorem countDigits_zero (b : Nat) : countDigits b 0 = 1 := rfl

theorem countDigits_pos {b m : Nat} (h : m ≠ 0) : countDigits b m = 1 + ilog b m := by simp [countDigits, h]

/-- Every count is at least 1. -/
theorem one_le_countDigits (b m : Nat) : 1 ≤ countDigits b m := by
  unfold countDigits; split <;> omega

theorem dispatch_two : dispatch 2 = .bits := rfl
theorem dispatch_eight : dispatch 8 = .oct := rfl
theorem dispatch_ten : dispatch 10 = .dec := rfl
theorem dispatch_sixteen : dispatch 16 = .hex := rfl

theorem dispatch_gen {r : Nat} (h2 : r ≠ 2) (h8 : r ≠ 8) (h10 : r ≠ 10) (h16 : r ≠ 16) : dispatch r = .gen := by
  simp [dispatch, h2, h8, h10, h16]

end Sys2Proof.Machine
end

