-- ==== Sys2Proof/Laws/State.lean ====
section
/-! SUPPORT. One lemma per field per update of the state, so that no proof unfolds a record update. -/
namespace Sys2Proof.Machine

variable (s t : State) (r : Response) (h : Ledger)

@[simp] theorem bubble_valid : Stage.bubble.valid = false := rfl
@[simp] theorem bubble_status : Stage.bubble.status = 0b000#3 := rfl
@[simp] theorem bubble_count : Stage.bubble.count = 0x00#8 := rfl

@[simp] theorem ofResponse_valid : (Stage.ofResponse r).valid = true := rfl
@[simp] theorem ofResponse_status : (Stage.ofResponse r).status = r.status.code := rfl
@[simp] theorem ofResponse_count : (Stage.ofResponse r).count = r.count := rfl

@[simp] theorem respondOk_status (n : Nat) : (respondOk n).status = .ok := rfl
@[simp] theorem respondOk_count (n : Nat) : (respondOk n).count = BitVec.ofNat 8 n := rfl
@[simp] theorem raiseStatus_status (st : Status) : (raiseStatus st).status = st := rfl
@[simp] theorem raiseStatus_count (st : Status) : (raiseStatus st).count = 0x00#8 := rfl

@[simp] theorem shift_s1 (p : Pipe) (st : Stage) : (p.shift st).s1 = st := rfl
@[simp] theorem shift_later (p : Pipe) (st : Stage) : (p.shift st).later = p.stages.dropLast := rfl
@[simp] theorem cleared_s1 (p : Pipe) : p.cleared.s1 = .bubble := rfl
@[simp] theorem cleared_later (p : Pipe) : p.cleared.later = p.later.map fun _ => Stage.bubble := rfl

@[simp] theorem answer_params : (s.answer r).params = s.params := rfl
@[simp] theorem answer_pipe : (s.answer r).pipe = s.pipe.shift (.ofResponse r) := rfl
@[simp] theorem answer_now : (s.answer r).now = s.now := rfl
@[simp] theorem answer_script : (s.answer r).script = s.script := rfl
@[simp] theorem answer_host : (s.answer r).host = s.host := rfl
@[simp] theorem answer_draws : (s.answer r).draws = s.draws := rfl

@[simp] theorem clearPipe_params : s.clearPipe.params = s.params := rfl
@[simp] theorem clearPipe_pipe : s.clearPipe.pipe = s.pipe.cleared := rfl
@[simp] theorem clearPipe_now : s.clearPipe.now = s.now := rfl
@[simp] theorem clearPipe_script : s.clearPipe.script = s.script := rfl
@[simp] theorem clearPipe_host : s.clearPipe.host = s.host := rfl
@[simp] theorem clearPipe_draws : s.clearPipe.draws = s.draws := rfl

@[simp] theorem bubble_params : s.bubble.params = s.params := rfl
@[simp] theorem bubble_pipe : s.bubble.pipe = s.pipe.shift .bubble := rfl
@[simp] theorem bubble_now : s.bubble.now = s.now := rfl
@[simp] theorem bubble_script : s.bubble.script = s.script := rfl
@[simp] theorem bubble_host : s.bubble.host = s.host := rfl
@[simp] theorem bubble_draws : s.bubble.draws = s.draws := rfl

@[simp] theorem drawPipe_params : s.drawPipe.params = s.params := rfl
@[simp] theorem drawPipe_pipe : s.drawPipe.pipe = powerOnPipe s.draws s.pipe.later.length := rfl
@[simp] theorem drawPipe_now : s.drawPipe.now = s.now := rfl
@[simp] theorem drawPipe_script : s.drawPipe.script = s.script := rfl
@[simp] theorem drawPipe_host : s.drawPipe.host = s.host := rfl
@[simp] theorem drawPipe_draws : s.drawPipe.draws = s.draws + 1 := rfl

/-- From the first reset edge on an edge's result stands; before it the pipeline is drawn anew. -/
theorem settle_booted (hb : s.host.booted = true) : settle s t = t := by simp [settle, hb]
theorem settle_unreset (hb : s.host.booted = false) : settle s t = t.drawPipe := by simp [settle, hb]

@[simp] theorem settle_params : (settle s t).params = t.params := by unfold settle; split <;> rfl
@[simp] theorem settle_now : (settle s t).now = t.now := by unfold settle; split <;> rfl
@[simp] theorem settle_script : (settle s t).script = t.script := by unfold settle; split <;> rfl
@[simp] theorem settle_host : (settle s t).host = t.host := by unfold settle; split <;> rfl

@[simp] theorem closeEdge_params : (closeEdge s t).params = t.params := rfl
@[simp] theorem closeEdge_pipe : (closeEdge s t).pipe = t.pipe := rfl
@[simp] theorem closeEdge_now : (closeEdge s t).now = s.nextCycle := rfl
@[simp] theorem closeEdge_script : (closeEdge s t).script = s.nextScript := rfl
@[simp] theorem closeEdge_draws : (closeEdge s t).draws = t.draws := rfl
@[simp] theorem closeEdge_host :
    (closeEdge s t).host = (s.host.observe s.now.act s.rsp).track s.now.port t.rsp := rfl
@[simp] theorem closeEdge_rsp : (closeEdge s t).rsp = t.rsp := rfl

@[simp] theorem addFault_booted (f : HostFault) : (h.addFault f).booted = h.booted := rfl
@[simp] theorem addFault_outstanding (f : HostFault) : (h.addFault f).outstanding = h.outstanding := rfl
@[simp] theorem addFault_shown (f : HostFault) : (h.addFault f).shown = h.shown := rfl
@[simp] theorem addFault_calls (f : HostFault) : (h.addFault f).calls = h.calls := rfl
@[simp] theorem addFault_faults (f : HostFault) : (h.addFault f).faults = f :: h.faults := rfl
@[simp] theorem addCall_booted (c : CallResult) : (h.addCall c).booted = h.booted := rfl
@[simp] theorem addCall_outstanding (c : CallResult) : (h.addCall c).outstanding = h.outstanding := rfl
@[simp] theorem addCall_shown (c : CallResult) : (h.addCall c).shown = h.shown := rfl
@[simp] theorem addCall_calls (c : CallResult) : (h.addCall c).calls = ⟨h.shown, c⟩ :: h.calls := rfl
@[simp] theorem addCall_faults (c : CallResult) : (h.addCall c).faults = h.faults := rfl

@[simp] theorem mapNext_next (f : State → State) : mapNext f (.next s) = .next (f s) := rfl
@[simp] theorem mapNext_fault (f : State → State) (e : Fault) : mapNext f (.fault e) = .fault e := rfl
@[simp] theorem mapNext_refused (f : State → State) (e : Refusal) : mapNext f (.refused e) = .refused e := rfl

end Sys2Proof.Machine
end

