-- ==== Sys2Proof/Laws/Ops.lean ====
section
/-! SUPPORT. What each shared operation can do, said once: the pipeline's moves, the operand checks, the host's side. -/
namespace Sys2Proof.Machine

/-- The stages after a shift: the new one, then the old ones but the last. -/
theorem stages_shift (p : Pipe) (st : Stage) : (p.shift st).stages = st :: p.stages.dropLast := rfl

/-- The stages after a reset edge are bubbles, as many as before. -/
theorem stages_cleared (p : Pipe) : p.cleared.stages = List.replicate p.lat .bubble := by
  simp [Pipe.stages, Pipe.cleared, Pipe.lat, List.replicate_succ, List.map_const']

@[simp] theorem length_stages (p : Pipe) : p.stages.length = p.lat := rfl

@[simp] theorem lat_shift (p : Pipe) (st : Stage) : (p.shift st).lat = p.lat := by
  simp [Pipe.lat, Pipe.shift, Pipe.stages]

@[simp] theorem lat_cleared (p : Pipe) : p.cleared.lat = p.lat := by simp [Pipe.lat, Pipe.cleared]

@[simp] theorem lat_powerOnPipe (d n : Nat) : (powerOnPipe d n).lat = n + 1 := by simp [Pipe.lat, powerOnPipe]

/-- A free draw keeps the number of stages. -/
@[simp] theorem lat_settle (s t : State) : (settle s t).pipe.lat = t.pipe.lat := by
  unfold settle; split <;> simp [Pipe.lat, powerOnPipe]

/-- The stages are those before the last, and the last. -/
theorem stages_eq_dropLast_append (p : Pipe) : p.stages = p.stages.dropLast ++ [p.last] := by
  rcases p with ⟨a, l⟩
  obtain rfl | ⟨m, x, rfl⟩ := List.eq_nil_or_concat l
  · rfl
  · simp only [Pipe.stages, Pipe.last, List.concat_eq_append, List.getLastD_concat]
    rw [← List.cons_append, List.dropLast_concat]

/-- What the shared operand checks can answer. -/
theorem checkOperand_cases (ptrW : PtrWidth) (ty : OperandType) (req : Request) (k : Width → Nat → Response) :
    (widthOf ptrW ty.wsel = none ∧ checkOperand ptrW ty req k = raiseStatus .illWidth) ∨
    (∃ W, widthOf ptrW ty.wsel = some W ∧ ty.nz = true ∧ lowBits W req.value = 0 ∧
      checkOperand ptrW ty req k = raiseStatus .nzViolation) ∨
    (∃ W, widthOf ptrW ty.wsel = some W ∧ (ty.nz = false ∨ lowBits W req.value ≠ 0) ∧
      checkOperand ptrW ty req k = k W (lowBits W req.value)) := by
  unfold checkOperand
  cases hw : widthOf ptrW ty.wsel with
  | none => simp
  | some W => by_cases hp : lowBits W req.value = 0 <;> cases hn : ty.nz <;> simp [hp]

/-- A width select has no width exactly when it is reserved. -/
theorem widthOf_eq_none (ptrW : PtrWidth) (w : WidthSel) : widthOf ptrW w = none ↔ w.legal = false := by
  cases w <;> simp [widthOf, WidthSel.legal]

/-- An operand is below 2^W. -/
theorem lowBits_lt (W : Width) (b : Bus) : lowBits W b < 2 ^ W.bits := Nat.mod_lt _ (Nat.two_pow_pos _)

/-- `rst` = 1 is a reset, whatever the other ports hold. -/
theorem event_reset {p : Port} (h : p.rst = true) : p.event = .reset := by simp [Port.event, h]

theorem event_idle {p : Port} (h : p.rst = false) (hv : p.reqValid = false) : p.event = .idle := by
  simp [Port.event, h, hv]

theorem event_request {p : Port} (h : p.rst = false) (hv : p.reqValid = true) : p.event = .request p.req := by
  simp [Port.event, h, hv]

/-- Taking a response adds one result or one fault, and touches nothing else. -/
theorem receive_cases (h : Ledger) (rsp : Stage) :
    (∃ c, h.receive rsp = h.addCall c) ∨ (∃ f, h.receive rsp = h.addFault f) := by
  unfold Ledger.receive
  split
  · exact .inl ⟨_, rfl⟩
  · exact .inl ⟨_, rfl⟩
  all_goals exact .inr ⟨_, rfl⟩

/-- Observing a cycle leaves the ledger, adds one result, or adds one fault. -/
theorem observe_cases (h : Ledger) (act : HostAct) (rsp : Stage) :
    h.observe act rsp = h ∨ (∃ c, h.observe act rsp = h.addCall c) ∨ (∃ f, h.observe act rsp = h.addFault f) := by
  unfold Ledger.observe
  split
  · split
    · exact .inr (receive_cases h rsp)
    · exact .inr (receive_cases h rsp)
    · exact .inr (.inr ⟨_, rfl⟩)
    · exact .inr (.inr ⟨_, rfl⟩)
    · exact .inr (.inr ⟨_, rfl⟩)
    · exact .inl rfl
  · exact .inl rfl

@[simp] theorem observe_booted (h : Ledger) (act : HostAct) (rsp : Stage) : (h.observe act rsp).booted = h.booted := by
  obtain e | ⟨c, e⟩ | ⟨f, e⟩ := observe_cases h act rsp <;> simp [e]

@[simp] theorem observe_outstanding (h : Ledger) (act : HostAct) (rsp : Stage) :
    (h.observe act rsp).outstanding = h.outstanding := by
  obtain e | ⟨c, e⟩ | ⟨f, e⟩ := observe_cases h act rsp <;> simp [e]

@[simp] theorem observe_shown (h : Ledger) (act : HostAct) (rsp : Stage) : (h.observe act rsp).shown = h.shown := by
  obtain e | ⟨c, e⟩ | ⟨f, e⟩ := observe_cases h act rsp <;> simp [e]

@[simp] theorem track_calls (h : Ledger) (port : Port) (rsp : Stage) : (h.track port rsp).calls = h.calls := by
  unfold Ledger.track; split <;> [rfl; (split <;> rfl)]

@[simp] theorem track_faults (h : Ledger) (port : Port) (rsp : Stage) : (h.track port rsp).faults = h.faults := by
  unfold Ledger.track; split <;> [rfl; (split <;> rfl)]

/-- A reset edge discards every request in flight. -/
theorem track_reset (h : Ledger) {port : Port} (rsp : Stage) (hr : port.rst = true) :
    h.track port rsp = { h with booted := true, outstanding := [], shown := none } := by
  simp [Ledger.track, hr]

end Sys2Proof.Machine
end

