-- ==== Sys2Proof/Laws/PerInstr.lean ====
section
/-! SUPPORT. Statements made per instruction: the fields of the command byte that the encoder writes (30_encoding.md R50,
R51, R59). -/
namespace Sys2Proof.Laws.EncodeFields

/-- The command byte carries the operand type in bits 7, 6 and 5:3 and the op code in bits 2:0. -/
def Statement (i : Instr) : Prop :=
  cmdType (encode i) = i.ty ∧ (cmdOp (encode i)).toNat = i.opCode

theorem bits (ty : OperandType) : Statement (.bits ty) := by
  rcases ty with ⟨_ | _, _ | _, w⟩ <;> cases w <;> exact ⟨rfl, rfl⟩

theorem oct (ty : OperandType) : Statement (.oct ty) := by
  rcases ty with ⟨_ | _, _ | _, w⟩ <;> cases w <;> exact ⟨rfl, rfl⟩

theorem hex (ty : OperandType) : Statement (.hex ty) := by
  rcases ty with ⟨_ | _, _ | _, w⟩ <;> cases w <;> exact ⟨rfl, rfl⟩

theorem dec (ty : OperandType) : Statement (.dec ty) := by
  rcases ty with ⟨_ | _, _ | _, w⟩ <;> cases w <;> exact ⟨rfl, rfl⟩

theorem radix (ty : OperandType) : Statement (.radix ty) := by
  rcases ty with ⟨_ | _, _ | _, w⟩ <;> cases w <;> exact ⟨rfl, rfl⟩

theorem radixc (ty : OperandType) : Statement (.radixc ty) := by
  rcases ty with ⟨_ | _, _ | _, w⟩ <;> cases w <;> exact ⟨rfl, rfl⟩

end Sys2Proof.Laws.EncodeFields
end

