-- ==== Sys2Proof/Laws/Step.lean ====
section
/-! SUPPORT. What one edge and one step can do, said once. -/
namespace Sys2Proof.Machine

/-- Every command only answers: some response enters the pipeline. -/
theorem exec_answers (i : Instr) (s : State) : ∃ r, exec i s = .next (s.answer r) := by
  cases i <;> exact ⟨_, rfl⟩

/-- A sampled word, legal or reserved, is answered. -/
theorem runCommand_answers (s : State) (c : Byte) : ∃ r, runCommand s c = .next (s.answer r) := by
  unfold runCommand
  split
  · exact exec_answers _ s
  · exact ⟨_, rfl⟩

/-- What the ILU does at one edge: it clears its pipeline, takes in a bubble, or takes in a response, the last two as
R152 lets them stand. -/
theorem iluEdge_cases (s : State) :
    (s.now.port.rst = true ∧ iluEdge s = .next s.clearPipe) ∨
    (s.now.port.rst = false ∧ s.now.port.reqValid = false ∧ iluEdge s = .next (settle s s.bubble)) ∨
    (s.now.port.rst = false ∧ s.now.port.reqValid = true ∧
      ∃ r, runCommand s s.now.port.req.cmd = .next (s.answer r) ∧ iluEdge s = .next (settle s (s.answer r))) := by
  cases hr : s.now.port.rst with
  | true => exact .inl ⟨rfl, by simp [iluEdge, event_reset hr]⟩
  | false =>
    cases hv : s.now.port.reqValid with
    | false => exact .inr (.inl ⟨rfl, rfl, by simp [iluEdge, event_idle hr hv]⟩)
    | true =>
      obtain ⟨r, h⟩ := runCommand_answers s s.now.port.req.cmd
      exact .inr (.inr ⟨rfl, rfl, r, h, by simp [iluEdge, event_request hr hv, h]⟩)

/-- The ILU never stops. -/
theorem iluEdge_next (s : State) : ∃ t, iluEdge s = .next t := by
  obtain ⟨-, h⟩ | ⟨-, -, h⟩ | ⟨-, -, r, -, h⟩ := iluEdge_cases s <;> exact ⟨_, h⟩

/-- A step that gives a next state: the host was not stuck, and the state is the ILU's edge closed by the host. -/
theorem step_next {s t : State} (h : step s = .next t) :
    s.stuck = false ∧ ∃ u, iluEdge s = .next u ∧ t = closeEdge s u := by
  obtain ⟨u, hu⟩ := iluEdge_next s
  unfold step at h
  cases hs : s.stuck with
  | true => simp [hs] at h
  | false =>
    simp only [hs, hu, mapNext_next, Bool.false_eq_true, if_false, Host.Outcome.next.injEq] at h
    exact ⟨rfl, u, hu, h.symm⟩

/-- A step of a host that is not stuck gives a next state. -/
theorem step_of_not_stuck {s : State} (h : s.stuck = false) : ∃ u, iluEdge s = .next u ∧ step s = .next (closeEdge s u) := by
  obtain ⟨u, hu⟩ := iluEdge_next s
  exact ⟨u, hu, by simp [step, h, hu]⟩

end Sys2Proof.Machine
end

