-- ==== Sys2Proof/Tests/Slice0.lean ====
section
/-! SUPPORT. The model's own tests. Expected results are the spec's: words by 30_encoding.md R50 to R59, responses from the
vectors of 95_test_vectors.md. Then a witness for the hypotheses of each statement. -/
namespace Sys2Proof.Tests

open Sys2Proof.Machine Sys2Proof.Claims

/-- A cycle that presents a request. -/
def presents (cmd value radix : Nat) (act : HostAct) : Cycle :=
  { port := { rst := false, reqValid := true,
              req := { cmd := BitVec.ofNat 8 cmd, value := BitVec.ofNat 128 value, radix := BitVec.ofNat 128 radix } },
    act := act }

/-- The reset state with a request on the port. -/
def st (cmd value radix : Nat) : State := { State.reset with now := presents cmd value radix .take }

/-- A cycle with `rst` = 1, with a request presented beside it. -/
def resets : Cycle := { presents 0x00 0x9 0x0 .leave with port := { (presents 0x00 0x9 0x0 .leave).port with rst := true } }

/-- A cycle in which the host only waits. -/
def waits : Cycle := { Cycle.idle with act := .await }

/-- The status and count that a command answers, on these operands. -/
def answered (i : Instr) (value radix : Nat) : Option (Nat × Nat) :=
  match exec i (st 0 value radix) with
  | .next t => some (t.pipe.s1.status.toNat, t.pipe.s1.count.toNat)
  | .fault _ => none
  | .refused _ => none

/-- The status and count on the response port after one step from a state. -/
def shownAfter (s : State) : Option (Bool × Nat × Nat) :=
  match step s with
  | .next t => some (t.rsp.valid, t.rsp.status.toNat, t.rsp.count.toNat)
  | .fault _ => none
  | .refused _ => none

/-- A state of 95_test_vectors.md program 3 (LAT = 3) after edge e3, with the next cycle as given: S[1] OK 3, S[2] OK 16,
S[3] OK 6. -/
def inFlight (now : Cycle) : State :=
  { State.reset with
    pipe := { s1 := ⟨true, 0b000#3, 3#8⟩, later := [⟨true, 0b000#3, 16#8⟩, ⟨true, 0b000#3, 6#8⟩] }
    now := now
    host := { Ledger.afterReset with
      outstanding := [(presents 0x5A 0xFFFFFFFFFFFFFFFF 0x0 .take).port.req, (presents 0x03 0xC8 0x0 .take).port.req]
      shown := some (presents 0x09 0xFFFF 0x0 .take).port.req } }

/-- One response with this status on the port (LAT = 1). -/
def showing (status : StatusBits) (act : HostAct) : State :=
  { State.reset with pipe := { s1 := ⟨true, status, 0#8⟩, later := [] }, now := { Cycle.idle with act := act } }

/-! ### WellFormed refuses an ill-formed term for its one check, by each reserved code -/

theorem test_wellFormed_refuses_rsvd110 : (Instr.bits ⟨false, false, .rsvd110⟩).wellFormed = false := by decide
theorem test_wellFormed_refuses_rsvd111 : (Instr.radixc ⟨true, true, .rsvd111⟩).wellFormed = false := by decide
theorem test_wellFormed_accepts : (Instr.hex ⟨true, true, .ptr⟩).wellFormed = true := by decide

/-! ### Words written out from `n s www ooo` (R50) -/

theorem test_decode_bits : decode 0b0_1_000_000#8 = .ok (.bits ⟨false, true, .w8⟩) := by decide
theorem test_decode_oct : decode 0b0_0_001_001#8 = .ok (.oct ⟨false, false, .w16⟩) := by decide
theorem test_decode_hex : decode 0b1_1_100_010#8 = .ok (.hex ⟨true, true, .w128⟩) := by decide
theorem test_decode_dec : decode 0b1_0_011_011#8 = .ok (.dec ⟨true, false, .w64⟩) := by decide
theorem test_decode_radix : decode 0b0_1_101_100#8 = .ok (.radix ⟨false, true, .ptr⟩) := by decide
theorem test_decode_radixc : decode 0b0_0_010_101#8 = .ok (.radixc ⟨false, false, .w32⟩) := by decide
theorem test_decode_rejects_op110 : decode 0b0_0_000_110#8 = .error .illOp := by decide
theorem test_decode_rejects_op_first : decode 0b1_1_111_111#8 = .error .illOp := by decide
theorem test_decode_rejects_width : decode 0b1_0_110_101#8 = .error .illWidth := by decide
theorem test_table_word : decodeTableWord 8 0x05 = some (.radixc ⟨false, false, .w8⟩) := by decide
theorem test_encode_dec_i8 : encode (.dec ⟨false, true, .w8⟩) = 0x43#8 := by decide

/-! ### Responses (95_test_vectors.md sections 1 and 3) -/

theorem test_bits_min : answered (.bits ⟨false, true, .w8⟩) 0x80 0 = some (0, 8) := by decide +kernel
theorem test_bits_u128 : answered (.bits ⟨false, false, .w128⟩) (2 ^ 128 - 1) 0 = some (0, 128) := by decide +kernel
theorem test_oct_negative : answered (.oct ⟨false, true, .w32⟩) 0xFFFFFFFB 0 = some (0, 11) := by decide +kernel
theorem test_oct_u16 : answered (.oct ⟨false, false, .w16⟩) 0x8000 0 = some (0, 6) := by decide +kernel
theorem test_hex_saturates : answered (.hex ⟨false, false, .w8⟩) 0xFF 0 = some (0, 2) := by decide +kernel
theorem test_hex_negative : answered (.hex ⟨false, true, .w128⟩) (2 ^ 128 - 1) 0 = some (0, 32) := by decide +kernel
theorem test_dec_min : answered (.dec ⟨false, true, .w8⟩) 0x80 0 = some (0, 3) := by decide +kernel
theorem test_dec_crossing : answered (.dec ⟨false, false, .w64⟩) 10000000000000000000 0 = some (0, 20) := by decide +kernel
theorem test_radix_negative : answered (.radix ⟨false, true, .w8⟩) 0xFF 3 = some (0, 5) := by decide +kernel
theorem test_radix_truncates : answered (.radix ⟨false, false, .w8⟩) 0xFF 0x100 = some (2, 0) := by decide +kernel
theorem test_radixc_dispatches : answered (.radixc ⟨false, true, .w8⟩) 0xFF 10 = some (0, 1) := by decide +kernel
theorem test_radixc_absent : answered (.radixc ⟨false, false, .w8⟩) 0xFF 0x101 = some (1, 0) := by decide +kernel

/-! ### Steps (95_test_vectors.md sections 3.7 and 4) -/

theorem test_step_ill_op : shownAfter (st 0xFF 0 0) = some (true, 3, 0) := by decide +kernel
theorem test_step_ill_width : shownAfter (st 0xB5 0 1) = some (true, 4, 0) := by decide +kernel
theorem test_step_nz_before_radix : shownAfter (st 0xD4 0 0) = some (true, 5, 0) := by decide +kernel
theorem test_step_moves_the_pipeline : shownAfter (inFlight .idle) = some (true, 0, 16) := by decide +kernel
theorem test_step_reset_wins : shownAfter (inFlight resets) = some (false, 0, 0) := by decide +kernel
theorem test_first_step_after_reset : shownAfter (State.reset.withFetchWord 8 0x03) = some (true, 0, 1) := by decide +kernel
/-- A list of two bytes is one number in its byte order (the model's choice, log 24). -/
theorem test_bus_bytes : (busOfBytes .little [0x34#8, 0x12#8], busOfBytes .big [0x12#8, 0x34#8]) = (0x1234#128, 0x1234#128) := by
  decide +kernel
theorem test_asm_name : asmName (.hex ⟨true, true, .w128⟩) = some "CNT.HEX.NZI128" := by decide
theorem test_asm_negative :
    assemble .p64 (.cnt (.radix ⟨false, true, .w16⟩) (-1) (some 3)) = some ⟨0x4C#8, 0xFFFF#128, 3#128⟩ := by decide +kernel
theorem test_asm_refuses_nz_zero : assemble .p64 (.cnt (.dec ⟨true, false, .w8⟩) 0 none) = none := by decide +kernel

/-! ### Witnesses: states and operands that meet each statement's hypotheses, at the clauses' boundaries -/

theorem witness_IlogIsExact : (2 ≤ 2 ∧ 1 ≤ 1) ∧ (2 ≤ 10 ∧ 1 ≤ 99) := by decide
theorem witness_SaturatingIlogRefinesIlog : 2 ≤ 255 ∧ 255 < 2 ^ Width.w8.bits ∧ 1 ≤ 255 ∧ 255 < 2 ^ Width.w8.bits := by decide
theorem witness_FastPathsCountDigits : (3 = 1 ∨ 3 = 3 ∨ 3 = 4) ∧ 1 ≤ 255 ∧ 255 < 2 ^ Width.w8.bits := by decide
theorem witness_LeadingZerosAndBitLength : (0 < 2 ^ 8 ∧ 0 = 0) ∧ (255 < 2 ^ 8 ∧ 255 ≠ 0) := by decide
theorem witness_MagnitudeIsExact :
    128 < 2 ^ Width.w8.bits ∧ neg 128 Width.w8.bits true = true ∧ neg 127 Width.w8.bits true = false := by decide
theorem witness_MinDigitTable : 2 ^ (Width.w8.bits - 1) < 129 ∧ (6 ≤ 11 ∧ 11 ≤ 11) ∧ (12 ≤ 128 ∧ 128 ≤ 128) ∧ 129 ≤ 129 := by
  decide
theorem witness_FixedNegativeCounts :
    Accepted (st 0xC0 0x80 0) ⟨true, true, .w8⟩ .w8 ∧ Negative .w8 true (valueOf (st 0xC0 0x80 0) .w8) := by decide
theorem witness_CountRange :
    (eval .p64 (st 0x20 (2 ^ 127) 0).now.port.req).status = .ok ∧ 2 ^ 127 ≤ (BitVec.ofNat 128 (2 ^ 127)).toNat := by
  decide +kernel
theorem witness_EvalChecksInOrder :
    6 ≤ (0x06#8).toNat % 8 ∧ ((0x30#8).toNat % 8 ≤ 5 ∧ 6 ≤ (0x30#8).toNat / 8 % 8) ∧
    decode 0x83#8 = .ok (.dec ⟨true, false, .w8⟩) ∧ widthOf .p64 .w8 = some .w8 ∧ (0x100#128).toNat % 2 ^ Width.w8.bits = 0 := by
  decide

/-- The shared errors of the six operations: a zero value under `nz`; a reserved width needs no more than its name. -/
theorem witness_CommonErrors :
    widthOf (st 0x80 0x100 0).params.ptrW .w8 = some .w8 ∧ valueOf (st 0x80 0x100 0) .w8 = 0 := by decide

/-- CNT.BITS, CNT.OCT, CNT.HEX and CNT.DEC: a negative value (MIN_W) and a non-negative one (the signed maximum). -/
theorem witness_CntRuns :
    (Accepted (st 0x40 0x80 0) ⟨false, true, .w8⟩ .w8 ∧ Negative .w8 true (valueOf (st 0x40 0x80 0) .w8)) ∧
    (Accepted (st 0x40 0x7F 0) ⟨true, true, .w8⟩ .w8 ∧ ¬Negative .w8 true (valueOf (st 0x40 0x7F 0) .w8)) := by decide

/-- CNT.RADIX and CNT.RADIXC: radices 1 and 2, and 10 with a negative value. -/
theorem witness_CntRadixRuns :
    (Accepted (st 0x44 0xFF 0x101) ⟨false, true, .w8⟩ .w8 ∧ radixOf (st 0x44 0xFF 0x101) .w8 < 2) ∧
    (Accepted (st 0x44 0xFF 2) ⟨false, true, .w8⟩ .w8 ∧ 2 ≤ radixOf (st 0x44 0xFF 2) .w8) ∧
    (Accepted (st 0x44 0xFF 10) ⟨false, true, .w8⟩ .w8 ∧ radixOf (st 0x44 0xFF 10) .w8 = 10) := by decide
theorem witness_DispatchEqualities :
    Accepted (st 0x04 5 0x102) ⟨false, false, .w8⟩ .w8 ∧ radixOf (st 0x04 5 0x102) .w8 = 2 ∧ radixOf (st 0x04 5 8) .w8 = 8 ∧
    radixOf (st 0x04 5 0x10A) .w8 = 10 ∧ radixOf (st 0x04 5 16) .w8 = 16 := by decide
theorem witness_CountFallsWithRadix :
    Accepted (st 0x44 0xFF 0) ⟨false, true, .w8⟩ .w8 ∧ 2 ≤ (11#128).toNat % 2 ^ Width.w8.bits ∧
    (11#128).toNat % 2 ^ Width.w8.bits < (255#128).toNat % 2 ^ Width.w8.bits ∧
    ¬(Negative .w8 true (valueOf (st 0x44 0xFF 0) .w8) ∧ (11#128).toNat % 2 ^ Width.w8.bits = 10) ∧ 128 ≤ 157 ∧ 157 < 256 := by
  decide
theorem witness_CrossingPowers :
    (widthOf (st 0x04 242 3).params.ptrW .w8 = some .w8 ∧ 2 ≤ radixOf (st 0x04 242 3) .w8 ∧ 1 ≤ 5 ∧
      radixOf (st 0x04 242 3) .w8 ^ 5 ≤ 2 ^ Width.w8.bits - 1 ∧
      valueOf (st 0x04 242 3) .w8 = radixOf (st 0x04 242 3) .w8 ^ 5 - 1) ∧
    (radixOf (st 0x44 81 3) .w8 ^ 4 ≤ 2 ^ (Width.w8.bits - 1) - 1 ∧
      valueOf (st 0x44 81 3) .w8 = radixOf (st 0x44 81 3) .w8 ^ 4) := by decide
theorem witness_NegativesUseMinMagnitude :
    Accepted (st 0x44 0xFF 3) ⟨false, true, .w8⟩ .w8 ∧ Negative .w8 true (valueOf (st 0x44 0xFF 3) .w8) ∧
    2 ≤ radixOf (st 0x44 0xFF 3) .w8 ∧ radixOf (st 0x44 0xFF 3) .w8 ≠ 10 ∧
    2 ^ (Width.w8.bits - 1) ≤ (0x80#128).toNat % 2 ^ Width.w8.bits := by decide
theorem witness_DecimalSignSymmetry :
    widthOf (st 0x43 0x9C 0).params.ptrW .w8 = some .w8 ∧ valueOf (st 0x43 0x9C 0) .w8 ≠ 2 ^ (Width.w8.bits - 1) ∧
    (100#128).toNat % 2 ^ Width.w8.bits = (2 ^ Width.w8.bits - valueOf (st 0x43 0x9C 0) .w8) % 2 ^ Width.w8.bits := by decide
theorem witness_Pow2Laws :
    (Accepted (st 0x00 0 0) ⟨false, false, .w8⟩ .w8 ∧ valueOf (st 0x00 0 0) .w8 = 0) ∧
    widthOf (st 0x80 1 0).params.ptrW .w8 = some .w8 ∧ valueOf (st 0x80 1 0) .w8 ≠ 0 := by decide
theorem witness_NonZeroFlag :
    widthOf (st 0xC0 0x80 0).params.ptrW .ptr = some .w64 ∧ valueOf (st 0xC0 0x80 0) .w64 ≠ 0 ∧
    valueOf (st 0xC0 (2 ^ 64) 0) .w64 = 0 := by decide
theorem witness_PointerWidthIsAnAlias :
    ({ st 0x28 1 0 with params := ⟨.p16, .little⟩ } : State).params.ptrW = .p16 ∧
    ({ st 0x28 1 0 with params := ⟨.p32, .big⟩ } : State).params.ptrW = .p32 ∧ (st 0x28 1 0).params.ptrW = .p64 := by decide
theorem witness_OnlyLowBitsAreRead :
    widthOf (st 0x04 0x34 3).params.ptrW .w8 = some .w8 ∧
    (BitVec.ofNat 128 0x1234).toNat % 2 ^ Width.w8.bits = valueOf (st 0x04 0x34 3) .w8 ∧
    (BitVec.ofNat 128 0x103).toNat % 2 ^ Width.w8.bits = radixOf (st 0x04 0x34 3) .w8 := by decide
theorem witness_StepRunsDecodedCommand :
    (st 0x43 0x80 0).now.port.rst = false ∧ (st 0x43 0x80 0).now.port.reqValid = true ∧
    decode (st 0x43 0x80 0).now.port.req.cmd = .ok (.dec ⟨false, true, .w8⟩) := by decide
theorem witness_PlacedWordIsSampled : 0xED < 256 ∧ decodeTableWord 8 0xED = some (.radixc ⟨true, true, .ptr⟩) := by decide

/-- Before the first reset edge: a host that presents a request, and one that waits. -/
theorem witness_UnresetStagesAreFree :
    ∃ s s' : State, (s.host.booted = false ∧ s.now.port.rst = false ∧ s.now.port.reqValid = true) ∧
      (s'.host.booted = false ∧ s'.now.port.rst = false ∧ s'.now.act = .await) ∧ 2 < 2 + 1 :=
  ⟨State.powerOn Config.defaultParams 2 (presents 0x43 0x80 0 .take) [],
    State.powerOn Config.defaultParams 2 waits [], ⟨rfl, rfl, rfl⟩, ⟨rfl, rfl, rfl⟩, by decide⟩

/-- The step relation: no step is stuck on a reset, on a request, or on an idle cycle with a response in flight. -/
theorem witness_StepIsTheStepRelation :
    (inFlight resets).host.booted = true ∧ (st 0x43 0x80 0).host.booted = true ∧ (inFlight waits).host.booted = true ∧
    ((inFlight resets).stuck = false ∧ (inFlight resets).now.port.rst = true) ∧
    ((st 0x43 0x80 0).stuck = false ∧ (st 0x43 0x80 0).now.port.rst = false ∧ (st 0x43 0x80 0).now.port.reqValid = true) ∧
    ((inFlight waits).stuck = false ∧ (inFlight waits).now.port.rst = false ∧
      (inFlight waits).now.port.reqValid = false) := by decide
theorem witness_ReservedWordsAnswered :
    ((st 0x06 5 3).now.port.rst = false ∧ (st 0x06 5 3).now.port.reqValid = true ∧
      6 ≤ (st 0x06 5 3).now.port.req.cmd.toNat % 8) ∧
    ((st 0x3D 5 3).now.port.req.cmd.toNat % 8 ≤ 5 ∧ 6 ≤ (st 0x3D 5 3).now.port.req.cmd.toNat / 8 % 8) := by decide
theorem witness_ResetEdge : (inFlight resets).now.port.rst = true := by decide

/-- The two invariants: states with responses in flight meet them and have a next state. -/
theorem witness_StepsKeepStagesLegal :
    (inFlight .idle).stagesLegal = true ∧ (∃ t, step (inFlight .idle) = .next t) ∧
    (∃ t, step (inFlight .idle) = .next t ∧ t.host.booted = true ∧ t.rsp.valid = true ∧ t.rsp.status = 0b000#3) ∧
    (∃ t, step (st 0x04 5 1) = .next t ∧ t.host.booted = true ∧ t.rsp.valid = true ∧ t.rsp.status ≠ 0b000#3) ∧
    (∃ t, step State.reset = .next t ∧ t.host.booted = true ∧ t.rsp.valid = false) := by
  refine ⟨by decide, ⟨_, rfl⟩, ⟨_, rfl, by decide, by decide, by decide⟩, ⟨_, rfl, by decide, by decide, by decide⟩,
    ⟨_, rfl, by decide, by decide⟩⟩

theorem witness_StepsKeepResponsesMatched :
    (inFlight .idle).matched = true ∧
    ∃ t, step (inFlight .idle) = .next t ∧ t.host.booted = true ∧ t.rsp.valid = true :=
  ⟨by decide +kernel, _, rfl, by decide, by decide⟩

/-- A step with a next state, from a state with responses in flight (ParametersAreFixed, HostFaultsAreNeverCleared). -/
theorem witness_next : ∃ t, step (inFlight waits) = .next t := ⟨_, rfl⟩

/-- The premise of the latency at LAT = 1, and at LAT = 2 for a host that waits after its request. -/
theorem witness_ResponseAfterLatEdges :
    ((st 0x03 5 0).host.booted = true ∧ (st 0x03 5 0).now.port.reqValid = true ∧
      ResetFree (st 0x03 5 0).pipe.lat (st 0x03 5 0)) ∧
    ∃ s : State, s.pipe.lat = 2 ∧ s.host.booted = true ∧ s.now.port.reqValid = true ∧ s.script = [waits] ∧ ResetFree s.pipe.lat s := by
  refine ⟨⟨rfl, rfl, rfl, fun _ _ => trivial⟩,
    { st 0x03 5 0 with pipe := ⟨.bubble, [.bubble]⟩, script := [waits] }, rfl, rfl, rfl, rfl, rfl, ?_⟩
  intro t h
  obtain rfl := Host.Outcome.next.inj h
  exact ⟨rfl, fun _ _ => trivial⟩

theorem witness_PipelineForgetsOlderRequests :
    (inFlight .idle).pipe.lat = ({ s1 := .bubble, later := [.bubble, .bubble] } : Pipe).lat ∧
    [resets.port, (presents 0x03 5 0 .take).port, waits.port].length = (inFlight .idle).pipe.lat := by decide
theorem witness_ResponseIgnoresHistory :
    (inFlight (presents 0x04 5 3 .take)).now.port = (st 0x04 5 3).now.port ∧
    (inFlight (presents 0x04 5 3 .take)).params.ptrW = (st 0x04 5 3).params.ptrW ∧
    (inFlight (presents 0x04 5 3 .take)).host.booted = true ∧ (st 0x04 5 3).host.booted = true ∧
    (inFlight (presents 0x04 5 3 .take)).stuck = false ∧ (st 0x04 5 3).stuck = false := by decide
theorem witness_RequestInputsIgnoredWithoutRequest :
    (inFlight resets).now.port.rst = true ∧ (inFlight waits).now.port.reqValid = false := by decide

/-- The host waits with nothing in flight: stuck. -/
theorem witness_OnlyAWaitingHostIsStuck :
    step { State.reset with now := waits } = .fault .hostStuck ∧ step (inFlight waits) ≠ .fault .hostStuck :=
  ⟨rfl, by intro h; cases h⟩

theorem witness_TakenResponses :
    ∀ status ∈ [0b000#3, 0b001#3, 0b010#3, 0b011#3, 0b100#3, 0b101#3],
      (showing status .await).host.booted = true ∧ (showing status .await).now.act ≠ .leave ∧
      (showing status .await).rsp.valid = true ∧ (showing status .await).rsp.status = status := by decide
theorem witness_LostResponses :
    ((showing 0b000#3 .leave).host.booted = true ∧ (showing 0b000#3 .leave).now.act = .leave ∧
      (showing 0b000#3 .leave).rsp.valid = true) ∧
    State.reset.rsp.valid = false ∧ State.reset.stuck = false := by decide

/-- Before the first reset edge: junk on the port, acted on or left; and a host that resets at once. -/
theorem witness_NothingCountsBeforeReset :
    (∃ s t : State, s.host.booted = false ∧ step s = .next t ∧ s.rsp.valid = true ∧ s.now.act ≠ .leave) ∧
    (∃ s t : State, s.host.booted = false ∧ step s = .next t ∧ (s.rsp.valid = false ∨ s.now.act = .leave)) ∧
    resets.port.rst = true ∧ resets.act = .leave := by
  refine ⟨⟨{ showing 0b111#3 .take with host := { Ledger.afterReset with booted := false } }, _, rfl, rfl, rfl, by decide⟩,
    ⟨{ showing 0b111#3 .leave with host := { Ledger.afterReset with booted := false } }, _, rfl, rfl, .inr rfl⟩, rfl, rfl⟩

theorem witness_OutstandingCountsRequestsInFlight :
    (inFlight .idle).host.booted = true ∧ (inFlight .idle).matched = true ∧
    ∃ t, step (inFlight resets) = .next t ∧ (inFlight resets).now.port.rst = true :=
  ⟨by decide, by decide +kernel, _, rfl, rfl⟩
theorem witness_RunEndsAfterLastRequest :
    ((inFlight .idle).host.booted = true ∧ (inFlight .idle).matched = true ∧
      ∀ c ∈ (inFlight .idle).now :: (inFlight .idle).script,
        c.port.reqValid = false ∧ c.port.rst = false ∧ c.act ≠ .await) ∧
    ∃ s : State, (∀ c ∈ s.now :: s.script, c.port.reqValid = false) ∧ s.now.port.rst = true :=
  ⟨by decide +kernel, inFlight { Cycle.idle with port := { Cycle.idle.port with rst := true } }, by decide, rfl⟩
theorem witness_WellBehavedHostRunsSafely :
    WellBehaved { inFlight (presents 0x43 0x80 0 .take) with script := [presents 0x05 7 1 .take] } := by
  refine ⟨by decide +kernel, by decide, ?_⟩
  show ∀ c ∈ [presents 0x43 0x80 0 .take, presents 0x05 7 1 .take], c.act = .take ∧ (c.port.reqValid = true → _)
  decide +kernel
theorem witness_AssemblerPlacesOperands :
    widthOf .p64 .w16 = some .w16 ∧
    (assemble .p64 (.cnt (.radix ⟨false, true, .w16⟩) (-32768) (some 65535))).isSome = true ∧
    (assemble .p64 (.cnt (.dec ⟨false, false, .w16⟩) 65535 none)).isSome = true := by decide +kernel

end Sys2Proof.Tests
end

/-! ### What enters S[1], as a function of the levels, and what every edge keeps -/

namespace Sys2Proof.Machine

/-- The response of a command to a request: the checks and the count of `exec`, without the state around them. -/
def commandResponse (ptrW : PtrWidth) (req : Request) : Instr → Response
  | .bits ty => checkOperand ptrW ty req fun W p => respondOk (bitsCount W ty.sgn p)
  | .oct ty => checkOperand ptrW ty req fun W p => respondOk (octCount W ty.sgn p)
  | .hex ty => checkOperand ptrW ty req fun W p => respondOk (hexCount W ty.sgn p)
  | .dec ty => checkOperand ptrW ty req fun W p => respondOk (decCount W ty.sgn p)
  | .radix ty => checkOperand ptrW ty req fun W p => radixResponse .radixFail W ty.sgn p (lowBits W req.radix)
  | .radixc ty => checkOperand ptrW ty req fun W p => radixResponse .absent W ty.sgn p (lowBits W req.radix)

/-- Of the state, a command reads `PTR_W` and the request on the port, and nothing else. -/
theorem exec_eq_answer (i : Instr) (s : State) :
    exec i s = .next (s.answer (commandResponse s.params.ptrW s.now.port.req i)) := by
  cases i <;> rfl

/-- The response to a sampled request, its command word decoded: legal or reserved (60_exceptions.md R133). -/
def requestResponse (ptrW : PtrWidth) (req : Request) : Response :=
  match decode req.cmd with
  | .ok i => commandResponse ptrW req i
  | .error e => raiseStatus (rejectStatus e)

theorem runCommand_eq_answer (s : State) :
    runCommand s s.now.port.req.cmd = .next (s.answer (requestResponse s.params.ptrW s.now.port.req)) := by
  unfold runCommand requestResponse
  cases decode s.now.port.req.cmd with
  | ok i => exact exec_eq_answer i s
  | error e => rfl

/-- The stage that enters S[1] at an edge with these levels, a reset edge included (10_state.md R29). -/
def enteringStage (ptrW : PtrWidth) (port : Port) : Stage :=
  match port.event with
  | .reset => .bubble
  | .idle => .bubble
  | .request req => .ofResponse (requestResponse ptrW req)

/-- From the first reset edge on, S[1] after an edge is a function of `PTR_W` and the levels at that edge. -/
theorem iluEdge_s1 {s u : State} (hb : s.host.booted = true) (h : iluEdge s = .next u) :
    u.pipe.s1 = enteringStage s.params.ptrW s.now.port := by
  obtain ⟨hr, e⟩ | ⟨hr, hv, e⟩ | ⟨hr, hv, r, hrun, e⟩ := iluEdge_cases s
  · obtain rfl := Host.Outcome.next.inj (e.symm.trans h)
    simp [enteringStage, event_reset hr]
  · obtain rfl := Host.Outcome.next.inj (e.symm.trans h)
    simp [enteringStage, event_idle hr hv, settle_booted s _ hb]
  · obtain rfl := Host.Outcome.next.inj (e.symm.trans h)
    have hans := Host.Outcome.next.inj (hrun.symm.trans (runCommand_eq_answer s))
    simp [enteringStage, event_request hr hv, settle_booted s _ hb, hans]

/-- An edge of the ILU, free draws included, changes no parameter and no number of stages. -/
theorem iluEdge_keeps_params_lat {s u : State} (h : iluEdge s = .next u) :
    u.params = s.params ∧ u.pipe.lat = s.pipe.lat := by
  obtain ⟨-, e⟩ | ⟨-, -, e⟩ | ⟨-, -, r, -, e⟩ := iluEdge_cases s <;>
    (obtain rfl := Host.Outcome.next.inj (e.symm.trans h); simp)

end Sys2Proof.Machine

/-! ### Scope: the parameters are fixed, and no response depends on an earlier one -/

namespace Sys2Proof.Proofs

open Sys2Proof.Machine Sys2Proof.Claims

/-- Settles O40: the ILU's edge keeps the parameters and the number of stages, and the host's closing touches neither. -/
theorem parametersAreFixed : Obligations.ParametersAreFixed := by
  intro s t h
  obtain ⟨-, u, hu, rfl⟩ := step_next h
  simpa using iluEdge_keeps_params_lat hu

/-- Settles O43: what enters S[1] is `enteringStage` of `PTR_W` and the levels, on which the two states agree. -/
theorem responseIgnoresHistory : Obligations.ResponseIgnoresHistory := by
  intro s s' hport hptr hb hb' hs hs'
  obtain ⟨u, hu, hstep⟩ := step_of_not_stuck hs
  obtain ⟨u', hu', hstep'⟩ := step_of_not_stuck hs'
  refine ⟨_, _, hstep, hstep', ?_⟩
  calc u.pipe.s1
    _ = enteringStage s.params.ptrW s.now.port := iluEdge_s1 hb hu
    _ = enteringStage s'.params.ptrW s'.now.port := by rw [hport, hptr]
    _ = u'.pipe.s1 := (iluEdge_s1 hb' hu').symm

end Sys2Proof.Proofs

/-! ### The decoder and the meanings against the pseudocode of EVAL -/

namespace Sys2Proof.Machine

/-- The eight codes of a field `op` or `wsel`, the two reserved ones of both first (30_encoding.md R51, R52). -/
theorem fieldCode_cases (k : BitVec 3) :
    (k = 6#3 ∨ k = 7#3) ∨ k = 0#3 ∨ k = 1#3 ∨ k = 2#3 ∨ k = 3#3 ∨ k = 4#3 ∨ k = 5#3 := by
  revert k; decide

/-- The mask of every decode row keeps the field `op` and clears the rest (30_encoding.md R58). -/
theorem and_opMask (c : Byte) : c &&& 0x07#8 = (cmdOp c).setWidth 8 := by
  apply BitVec.eq_of_toNat_eq
  have hmask : c.toNat &&& 7 = c.toNat % 8 := Nat.and_two_pow_sub_one_eq_mod c.toNat 3
  simp [cmdOp, hmask]
  omega

/-- The decode table's row number k is the one of `op` = k; the two reserved codes have none. -/
theorem find_decodeRow (c : Byte) : decodeTable.find? (·.selects c) = decodeTable[(cmdOp c).toNat]? := by
  simp only [decodeTable, DecodeRow.selects, List.find?_cons, and_opMask]
  obtain (h | h) | h | h | h | h | h | h := fieldCode_cases (cmdOp c) <;> rw [h] <;> rfl

/-- A reserved `op` is answered ILL_OP. -/
theorem requestResponse_of_no_row (ptrW : PtrWidth) {req : Request} (h : decodeTable[(cmdOp req.cmd).toNat]? = none) :
    requestResponse ptrW req = raiseStatus .illOp := by
  simp [requestResponse, decode, find_decodeRow, h, rejectStatus]

theorem checkOperand_of_no_width {ptrW : PtrWidth} {ty : OperandType} (req : Request) (k : Width → Nat → Response)
    (h : widthOf ptrW ty.wsel = none) : checkOperand ptrW ty req k = raiseStatus .illWidth := by
  simp [checkOperand, h]

theorem checkOperand_of_width {ptrW : PtrWidth} {ty : OperandType} {W : Width} (req : Request)
    (k : Width → Nat → Response) (h : widthOf ptrW ty.wsel = some W) :
    checkOperand ptrW ty req k =
      if ty.nz && lowBits W req.value == 0 then raiseStatus .nzViolation else k W (lowBits W req.value) := by
  simp [checkOperand, h]

/-- With a reserved width a command answers ILL_WIDTH, as the decoder's rejection does (log 12). -/
theorem commandResponse_of_illegal_width (ptrW : PtrWidth) (req : Request) {i : Instr} (h : i.ty.wsel.legal = false) :
    commandResponse ptrW req i = raiseStatus .illWidth := by
  have hw := (widthOf_eq_none ptrW i.ty.wsel).mpr h
  cases i <;> (simp only [Instr.ty] at hw; simp only [commandResponse, checkOperand_of_no_width _ _ hw])

/-- A word with a row of the decode table is answered as the row's command, also where its width is
reserved. -/
theorem requestResponse_of_row (ptrW : PtrWidth) {req : Request} {row : DecodeRow}
    (h : decodeTable[(cmdOp req.cmd).toNat]? = some row) (hty : (row.make (cmdType req.cmd)).ty = cmdType req.cmd) :
    requestResponse ptrW req = commandResponse ptrW req (row.make (cmdType req.cmd)) := by
  cases hl : (cmdType req.cmd).wsel.legal with
  | true => simp [requestResponse, decode, find_decodeRow, h, hl]
  | false =>
    rw [commandResponse_of_illegal_width ptrW req (by rw [hty, hl])]
    simp [requestResponse, decode, find_decodeRow, h, hl, rejectStatus]

/-- The width of a `wsel` code: none for 110 and 111, else the one of the list of R134. -/
theorem widthOf_ofCode (ptrW : PtrWidth) (k : BitVec 3) :
    widthOf ptrW (WidthSel.ofCode k) = if k = 0b110#3 ∨ k = 0b111#3 then none else some (evalWidth ptrW k) := by
  obtain (rfl | rfl) | rfl | rfl | rfl | rfl | rfl | rfl := fieldCode_cases k <;> rfl

/-- The second and third check of `EVAL`, as its pseudocode has them, are `checkOperand` on the word's operand type. -/
theorem checkOperand_cmdType (ptrW : PtrWidth) (req : Request) (k : Width → Nat → Response) :
    checkOperand ptrW (cmdType req.cmd) req k =
      if cmdWsel req.cmd = 0b110#3 ∨ cmdWsel req.cmd = 0b111#3 then raiseStatus .illWidth
      else if cmdNz req.cmd = true ∧ lowBits (evalWidth ptrW (cmdWsel req.cmd)) req.value = 0 then raiseStatus .nzViolation
      else k (evalWidth ptrW (cmdWsel req.cmd)) (lowBits (evalWidth ptrW (cmdWsel req.cmd)) req.value) := by
  have hw : widthOf ptrW (cmdType req.cmd).wsel = _ := widthOf_ofCode ptrW (cmdWsel req.cmd)
  by_cases h : cmdWsel req.cmd = 0b110#3 ∨ cmdWsel req.cmd = 0b111#3
  · rw [if_pos h] at hw ⊢
    exact checkOperand_of_no_width req k hw
  · rw [if_neg h] at hw ⊢
    rw [checkOperand_of_width req k hw]
    simp [cmdType]

/-- The route through the decoder and the six meanings is `EVAL` (60_exceptions.md R134). -/
theorem requestResponse_eq_eval (ptrW : PtrWidth) (req : Request) : requestResponse ptrW req = eval ptrW req := by
  obtain h | h | h | h | h | h | h := fieldCode_cases (cmdOp req.cmd)
  · rw [requestResponse_of_no_row ptrW (by obtain h | h := h <;> rw [h] <;> rfl)]
    simp [eval, h]
  all_goals
    rw [requestResponse_of_row ptrW (by rw [h]; rfl) rfl]
    simp only [commandResponse, checkOperand_cmdType]
    simp [eval, h, cmdType]

/-! ### The pipeline's edge -/

theorem edge_of_reset (ptrW : PtrWidth) (p : Pipe) {port : Port} (h : port.rst = true) :
    p.edge ptrW port = p.cleared := by simp [Pipe.edge, h]

theorem edge_of_no_reset (ptrW : PtrWidth) (p : Pipe) {port : Port} (h : port.rst = false) :
    p.edge ptrW port = p.shift (stageIn ptrW port) := by simp [Pipe.edge, h]

/-- At a reset edge and from it on, the ILU's edge is the step relation of the pipeline. -/
theorem iluEdge_pipe {s u : State} (hb : s.host.booted = true ∨ s.now.port.rst = true) (h : iluEdge s = .next u) :
    u.pipe = s.pipe.edge s.params.ptrW s.now.port := by
  obtain ⟨hr, e⟩ | ⟨hr, hv, e⟩ | ⟨hr, hv, r, hrun, e⟩ := iluEdge_cases s <;>
    obtain rfl := Host.Outcome.next.inj (e.symm.trans h)
  · rw [edge_of_reset _ _ hr, clearPipe_pipe]
  · have hb : s.host.booted = true := hb.resolve_right (by simp [hr])
    rw [settle_booted _ _ hb, bubble_pipe, edge_of_no_reset _ _ hr]
    simp [stageIn, hv]
  · have hb : s.host.booted = true := hb.resolve_right (by simp [hr])
    have hans := Host.Outcome.next.inj (hrun.symm.trans (runCommand_eq_answer s))
    rw [settle_booted _ _ hb, hans, answer_pipe, edge_of_no_reset _ _ hr]
    simp [stageIn, hv, requestResponse_eq_eval]

/-- At a reset edge and from it on, a step moves the pipeline by the step relation. -/
theorem step_pipe {s t : State} (hb : s.host.booted = true ∨ s.now.port.rst = true) (h : step s = .next t) :
    t.pipe = s.pipe.edge s.params.ptrW s.now.port := by
  obtain ⟨-, u, hu, rfl⟩ := step_next h
  simpa using iluEdge_pipe hb hu

end Sys2Proof.Machine

namespace Sys2Proof.Proofs

open Sys2Proof.Machine Sys2Proof.Claims

/-- Settles O33: a step moves the pipeline by `Pipe.edge`, read off clause by clause. -/
theorem stepIsTheStepRelation : Obligations.StepIsTheStepRelation := by
  intro s hs
  obtain ⟨u, -, hstep⟩ := step_of_not_stuck hs
  refine ⟨_, hstep, fun hr => ?_, fun hb hr hv => ?_, fun hb hr hv => ?_⟩
  · rw [step_pipe (.inr hr) hstep, edge_of_reset _ _ hr, stages_cleared]
    rfl
  · rw [step_pipe (.inl hb) hstep, edge_of_no_reset _ _ hr, stages_shift, stageIn, if_pos hv]
    rfl
  · rw [step_pipe (.inl hb) hstep, edge_of_no_reset _ _ hr, stages_shift, stageIn, if_neg (by simp [hv])]
    rfl

end Sys2Proof.Proofs

/-! ### The form of every response -/

namespace Sys2Proof.Machine

/-- The loop counts at most one power a turn. -/
theorem ilogUp_le_fuel (b m fuel pw : Nat) : ilogUp b m fuel pw ≤ fuel := by
  induction fuel generalizing pw with
  | zero => exact Nat.le_refl 0
  | succ fuel ih =>
    rcases Nat.lt_or_ge m pw with h | h
    · simp [ilogUp_of_lt h]
    · rw [ilogUp_of_le h]
      exact Nat.succ_le_succ (ih _)

/-- In no base does a magnitude below 2^W have more than W digits (40_datapath.md R79). -/
theorem countDigits_le (b : Nat) {m W : Nat} (hW : 1 ≤ W) (hm : m < 2 ^ W) : countDigits b m ≤ W := by
  by_cases h0 : m = 0
  · simpa [h0] using hW
  · have hilog : ilog b m ≤ m.log2 := ilogUp_le_fuel b m m.log2 b
    have hlog : m.log2 < W := (Nat.log2_lt h0).mpr hm
    rw [countDigits_pos h0]
    omega

theorem one_le_bits (W : Width) : 1 ≤ W.bits := by cases W <;> decide

theorem bits_le (W : Width) : W.bits ≤ 128 := by cases W <;> decide

/-- The magnitude of a W-bit pattern fits in W bits: a pattern whose sign bit is set is not 0. -/
theorem mag_lt {p W : Nat} (sgn : Bool) (hp : p < 2 ^ W) : mag p W sgn < 2 ^ W := by
  cases hn : neg p W sgn with
  | false => rwa [mag_of_not_neg hn]
  | true =>
    have hbit : p.testBit (W - 1) = true := by simp_all [neg]
    have hpos : p ≠ 0 := by rintro rfl; simp at hbit
    rw [mag_of_neg hn]
    omega

theorem minMag_lt {W : Nat} (hW : 1 ≤ W) : minMag W < 2 ^ W := Nat.pow_lt_pow_right (by decide) (by omega)

/-- A count that fits the rules: 1 to W (40_datapath.md R79). -/
def CountFits (W : Width) (n : Nat) : Prop := 1 ≤ n ∧ n ≤ W.bits

theorem countFits_countDigits (W : Width) (b : Nat) {m : Nat} (hm : m < 2 ^ W.bits) : CountFits W (countDigits b m) :=
  ⟨one_le_countDigits b m, countDigits_le b (one_le_bits W) hm⟩

theorem countFits_bitsCount (W : Width) (sgn : Bool) {p : Nat} (hp : p < 2 ^ W.bits) : CountFits W (bitsCount W sgn p) := by
  unfold bitsCount
  split
  · exact ⟨one_le_bits W, Nat.le_refl _⟩
  · exact countFits_countDigits W 2 hp

theorem countFits_octCount (W : Width) (sgn : Bool) {p : Nat} (hp : p < 2 ^ W.bits) : CountFits W (octCount W sgn p) := by
  unfold octCount
  split
  · cases W <;> exact ⟨by decide, by decide⟩
  · exact countFits_countDigits W 8 hp

theorem countFits_hexCount (W : Width) (sgn : Bool) {p : Nat} (hp : p < 2 ^ W.bits) : CountFits W (hexCount W sgn p) := by
  unfold hexCount
  split
  · cases W <;> exact ⟨by decide, by decide⟩
  · exact countFits_countDigits W 16 hp

theorem countFits_decCount (W : Width) (sgn : Bool) {p : Nat} (hp : p < 2 ^ W.bits) : CountFits W (decCount W sgn p) :=
  countFits_countDigits W 10 (mag_lt sgn hp)

theorem countFits_genCount (W : Width) (sgn : Bool) (r : Nat) {p : Nat} (hp : p < 2 ^ W.bits) :
    CountFits W (genCount p W.bits sgn r) := by
  unfold genCount
  split
  · exact countFits_countDigits W r (minMag_lt (one_le_bits W))
  · exact countFits_countDigits W r (mag_lt sgn hp)

theorem countFits_radixCount (W : Width) (sgn : Bool) (r : Nat) {p : Nat} (hp : p < 2 ^ W.bits) :
    CountFits W (radixCount W sgn p r) := by
  unfold radixCount
  split
  · exact countFits_bitsCount W sgn hp
  · exact countFits_octCount W sgn hp
  · exact countFits_decCount W sgn hp
  · exact countFits_hexCount W sgn hp
  · exact countFits_genCount W sgn r hp

/-- An OK response with a fitting count has the form of a stage. -/
theorem legal_respondOk {W : Width} {n : Nat} (h : CountFits W n) : (Stage.ofResponse (respondOk n)).legal = true := by
  obtain ⟨hlow, hhigh⟩ := h
  have hW := bits_le W
  have hn : n % 256 = n := Nat.mod_eq_of_lt (by omega)
  have hrange : 1 ≤ n ∧ n ≤ 128 := ⟨hlow, by omega⟩
  simpa [Stage.legal, Status.code, Status.ofCode, hn] using hrange

/-- An error response, or ABSENT, has the form of a stage. -/
theorem legal_raiseStatus {st : Status} (h : st ≠ .ok) : (Stage.ofResponse (raiseStatus st)).legal = true := by
  cases st
  case ok => exact absurd rfl h
  all_goals rfl

theorem legal_radixResponse {below : Status} (hbelow : below ≠ .ok) (W : Width) (sgn : Bool) (r : Nat) {p : Nat}
    (hp : p < 2 ^ W.bits) : (Stage.ofResponse (radixResponse below W sgn p r)).legal = true := by
  unfold radixResponse
  split
  · exact legal_raiseStatus hbelow
  · exact legal_respondOk (countFits_radixCount W sgn r hp)

/-- The operand checks answer in the form of a stage where the operation behind them does. -/
theorem legal_checkOperand (ptrW : PtrWidth) (ty : OperandType) (req : Request) {k : Width → Nat → Response}
    (hk : ∀ W p, p < 2 ^ W.bits → (Stage.ofResponse (k W p)).legal = true) :
    (Stage.ofResponse (checkOperand ptrW ty req k)).legal = true := by
  obtain ⟨-, e⟩ | ⟨W, -, -, -, e⟩ | ⟨W, -, -, e⟩ := checkOperand_cases ptrW ty req k <;> rw [e]
  · exact legal_raiseStatus (by decide)
  · exact legal_raiseStatus (by decide)
  · exact hk W _ (lowBits_lt W req.value)

theorem legal_commandResponse (ptrW : PtrWidth) (req : Request) (i : Instr) :
    (Stage.ofResponse (commandResponse ptrW req i)).legal = true := by
  cases i <;> refine legal_checkOperand ptrW _ req fun W p hp => ?_
  case bits ty => exact legal_respondOk (countFits_bitsCount W ty.sgn hp)
  case oct ty => exact legal_respondOk (countFits_octCount W ty.sgn hp)
  case hex ty => exact legal_respondOk (countFits_hexCount W ty.sgn hp)
  case dec ty => exact legal_respondOk (countFits_decCount W ty.sgn hp)
  case radix ty => exact legal_radixResponse (by decide) W ty.sgn _ hp
  case radixc ty => exact legal_radixResponse (by decide) W ty.sgn _ hp

theorem legal_eval (ptrW : PtrWidth) (req : Request) : (Stage.ofResponse (eval ptrW req)).legal = true := by
  rw [← requestResponse_eq_eval]
  unfold requestResponse
  cases decode req.cmd with
  | ok i => exact legal_commandResponse ptrW req i
  | error e => exact legal_raiseStatus (by cases e <;> decide)

theorem legal_bubble : Stage.bubble.legal = true := rfl

theorem legal_stageIn (ptrW : PtrWidth) (port : Port) : (stageIn ptrW port).legal = true := by
  unfold stageIn
  split
  · exact legal_eval ptrW port.req
  · exact legal_bubble

/-- An edge of the pipeline keeps the form of the stages, and a reset edge gives it to them. -/
theorem legal_edge (ptrW : PtrWidth) {p : Pipe} {port : Port} (h : port.rst = true ∨ ∀ st ∈ p.stages, st.legal = true) :
    ∀ st ∈ (p.edge ptrW port).stages, st.legal = true := by
  intro st hst
  cases hr : port.rst with
  | true =>
    rw [edge_of_reset ptrW p hr, stages_cleared] at hst
    rw [List.eq_of_mem_replicate hst, legal_bubble]
  | false =>
    rw [edge_of_no_reset ptrW p hr, stages_shift] at hst
    obtain rfl | hst := List.mem_cons.mp hst
    · exact legal_stageIn ptrW port
    · exact h.resolve_left (by simp [hr]) st (List.mem_of_mem_dropLast hst)

@[simp] theorem track_booted (h : Ledger) (port : Port) (rsp : Stage) :
    (h.track port rsp).booted = (h.booted || port.rst) := by
  cases hr : port.rst with
  | true => simp [track_reset h rsp hr]
  | false => unfold Ledger.track; split <;> [simp_all; (split <;> simp)]

/-- After a step a reset edge has come exactly when one had come before, or the step was one. -/
theorem step_booted {s t : State} (h : step s = .next t) : t.host.booted = (s.host.booted || s.now.port.rst) := by
  obtain ⟨-, u, -, rfl⟩ := step_next h
  simp

theorem stagesLegal_iff (s : State) :
    s.stagesLegal = true ↔ (s.host.booted = true → ∀ st ∈ s.pipe.stages, st.legal = true) := by
  cases hb : s.host.booted <;> simp [State.stagesLegal, hb]

theorem step_keeps_stagesLegal {s t : State} (hs : s.stagesLegal = true) (h : step s = .next t) :
    t.stagesLegal = true := by
  rw [stagesLegal_iff] at hs ⊢
  intro hb
  have hb : s.host.booted = true ∨ s.now.port.rst = true := by simpa [step_booted h] using hb
  rw [step_pipe hb h]
  exact legal_edge _ (hb.symm.imp_right hs)

/-- The response port is one of the stages. -/
theorem rsp_mem_stages (s : State) : s.rsp ∈ s.pipe.stages := by
  rw [stages_eq_dropLast_append]
  simp [State.rsp]

/-- A stage without a response holds 000 and count 0 (10_state.md R28). -/
theorem legal_of_invalid {st : Stage} (h : st.legal = true) (hv : st.valid = false) : st = .bubble := by
  simpa [Stage.legal, hv] using h

/-- An OK response has a count of 1 to 128 (10_state.md R26). -/
theorem legal_of_ok {st : Stage} (h : st.legal = true) (hv : st.valid = true) (hok : st.status = 0b000#3) :
    1 ≤ st.count.toNat ∧ st.count.toNat ≤ 128 := by
  simpa [Stage.legal, hv, hok, Status.ofCode] using h

/-- Any other response has a produced status and count 0 (60_exceptions.md R131). -/
theorem legal_of_not_ok {st : Stage} (h : st.legal = true) (hv : st.valid = true) (hok : st.status ≠ 0b000#3) :
    st.status.toNat ≤ 5 ∧ st.count = 0x00#8 := by
  obtain (e | e) | e | e | e | e | e | e := fieldCode_cases st.status
  case inr.inl => exact absurd e hok
  all_goals simp_all [Stage.legal, Status.ofCode]

end Sys2Proof.Machine

namespace Sys2Proof.Proofs

open Sys2Proof.Machine Sys2Proof.Claims

/-- Settles O38: what enters S[1] has the form of a stage, so every step keeps it, and the port is a stage. -/
theorem stepsKeepStagesLegal : Obligations.StepsKeepStagesLegal := by
  intro s t hs h
  have ht := step_keeps_stagesLegal hs h
  refine ⟨ht, fun hb => ?_⟩
  have hrsp : t.rsp.legal = true := (stagesLegal_iff t).mp ht hb _ (rsp_mem_stages t)
  refine ⟨fun hv => ?_, legal_of_ok hrsp, legal_of_not_ok hrsp⟩
  rw [legal_of_invalid hrsp hv]
  exact ⟨rfl, rfl⟩

end Sys2Proof.Proofs

/-! ### What the operations read and write -/

namespace Sys2Proof.Machine

/-- A command of width W reads the low W bits of its operands only, and of the radix only where it takes one (10_state.md
R22, R23; 30_encoding.md R55). -/
theorem commandResponse_congr {ptrW : PtrWidth} {req req' : Request} {i : Instr} {W : Width}
    (hw : widthOf ptrW i.ty.wsel = some W) (hv : lowBits W req'.value = lowBits W req.value)
    (hr : takesRadix i = true → lowBits W req'.radix = lowBits W req.radix) :
    commandResponse ptrW req' i = commandResponse ptrW req i := by
  cases i <;> simp only [Instr.ty] at hw
  case bits | oct | hex | dec => simp only [commandResponse, checkOperand_of_width _ _ hw, hv]
  case radix | radixc => simp only [commandResponse, checkOperand_of_width _ _ hw, hv, hr rfl]

/-! ### The pipeline forgets -/

@[simp] theorem lat_edge (ptrW : PtrWidth) (p : Pipe) (port : Port) : (p.edge ptrW port).lat = p.lat := by
  unfold Pipe.edge; split <;> simp

theorem Pipe.ext_stages {p q : Pipe} (h : p.stages = q.stages) : p = q := by
  cases p; cases q; simpa [Pipe.stages] using h

/-- Where the first k stages of two pipelines agree, the first k + 1 do after one edge with the same levels. -/
theorem take_stages_edge (ptrW : PtrWidth) {p q : Pipe} (port : Port) {k : Nat} (hlat : p.lat = q.lat)
    (h : p.stages.take k = q.stages.take k) :
    (p.edge ptrW port).stages.take (k + 1) = (q.edge ptrW port).stages.take (k + 1) := by
  cases hr : port.rst with
  | true => simp [edge_of_reset _ _ hr, stages_cleared, hlat]
  | false =>
    have hdrop : p.stages.dropLast.take k = q.stages.dropLast.take k := by
      rw [List.dropLast_eq_take, List.dropLast_eq_take, length_stages, length_stages, hlat, List.take_take,
        List.take_take, Nat.min_comm, ← List.take_take, ← List.take_take, h]
    simp [edge_of_no_reset _ _ hr, stages_shift, hdrop]

end Sys2Proof.Machine

namespace Sys2Proof.Claims

open Sys2Proof.Machine

@[simp] theorem afterEdges_nil (ptrW : PtrWidth) (p : Pipe) : afterEdges ptrW p [] = p := rfl

@[simp] theorem afterEdges_cons (ptrW : PtrWidth) (p : Pipe) (port : Port) (ports : List Port) :
    afterEdges ptrW p (port :: ports) = afterEdges ptrW (p.edge ptrW port) ports := rfl

@[simp] theorem lat_afterEdges (ptrW : PtrWidth) (p : Pipe) (ports : List Port) :
    (afterEdges ptrW p ports).lat = p.lat := by
  induction ports generalizing p with
  | nil => rfl
  | cons port ports ih => simp [ih]

/-- Every edge with the same levels makes one more stage agree. -/
theorem take_stages_afterEdges (ptrW : PtrWidth) {p q : Pipe} (ports : List Port) {k : Nat} (hlat : p.lat = q.lat)
    (h : p.stages.take k = q.stages.take k) :
    (afterEdges ptrW p ports).stages.take (k + ports.length) = (afterEdges ptrW q ports).stages.take (k + ports.length) := by
  induction ports generalizing p q k with
  | nil => simpa using h
  | cons port ports ih =>
    have hnext := ih (by simpa using hlat) (take_stages_edge ptrW port hlat h)
    simpa [Nat.add_right_comm, Nat.add_assoc] using hnext

end Sys2Proof.Claims

/-! ### A sampled command, and the request inputs where none is sampled -/

namespace Sys2Proof.Machine

/-- A host that presents a request is not stuck. -/
theorem not_stuck_of_request {s : State} (hr : s.now.port.rst = false) (hv : s.now.port.reqValid = true) :
    s.stuck = false := by
  simp [State.stuck, event_request hr hv]

/-- A step that samples a request with a legal command word runs the command. -/
theorem step_of_decoded {s : State} {i : Instr} (hr : s.now.port.rst = false) (hv : s.now.port.reqValid = true)
    (hi : decode s.now.port.req.cmd = .ok i) : step s = mapNext (fun t => closeEdge s (settle s t)) (exec i s) := by
  obtain ⟨r, hexec⟩ := exec_answers i s
  simp [step, not_stuck_of_request hr hv, iluEdge, event_request hr hv, runCommand, hi, hexec]

theorem eq_ok_of_decodeTableWord {w : Nat} {i : Instr} (h : decodeTableWord 8 w = some i) :
    decode (BitVec.ofNat 8 (w % 2 ^ 8)) = .ok i := by
  unfold decodeTableWord at h
  split at h
  · next hi => rw [hi, Option.some.inj h]
  · cases h

/-- The same state with other levels on the request inputs. -/
def State.withRequest (s : State) (req : Request) : State :=
  { s with now := { s.now with port := { s.now.port with req := req } } }

section
variable {s : State} (req : Request)

/-- The host's next cycle holds the other levels only where it repeats this one. -/
theorem nextCycle_withRequest :
    (s.withRequest req).nextCycle = if s.repeats then (s.withRequest req).now else s.nextCycle := by
  have hrep : (s.withRequest req).repeats = s.repeats := rfl
  unfold State.nextCycle
  rw [hrep]
  cases s.repeats <;> rfl

theorem settle_withRequest (t : State) : settle (s.withRequest req) (t.withRequest req) = (settle s t).withRequest req := by
  cases hb : s.host.booted with
  | true => rw [settle_booted s t hb]; exact settle_booted (s.withRequest req) _ hb
  | false => rw [settle_unreset s t hb]; exact settle_unreset (s.withRequest req) _ hb

variable (h : s.now.port.rst = true ∨ s.now.port.reqValid = false)
include h

/-- The request inputs are read only where a request is sampled (10_state.md R21). -/
theorem event_withRequest : (s.withRequest req).now.port.event = s.now.port.event := by
  obtain h | h := h <;> simp [State.withRequest, Port.event, h]

theorem stuck_withRequest : (s.withRequest req).stuck = s.stuck := by
  simp only [State.stuck, event_withRequest req h]
  rfl

/-- The ILU's edge writes no input level and, where no request is sampled, reads no request input. -/
theorem iluEdge_withRequest : iluEdge (s.withRequest req) = mapNext (·.withRequest req) (iluEdge s) := by
  obtain ⟨hr, e⟩ | ⟨hr, hv, e⟩ | ⟨hr, hv, -⟩ := iluEdge_cases s
  · rw [e, iluEdge, event_withRequest req h, event_reset hr]
    rfl
  · rw [e, iluEdge, event_withRequest req h, event_idle hr hv]
    exact congrArg Host.Outcome.next (settle_withRequest req s.bubble)
  · simp [hr, hv] at h

theorem track_withRequest (l : Ledger) (rsp : Stage) :
    l.track (s.withRequest req).now.port rsp = l.track s.now.port rsp := by
  have hsampled : (s.withRequest req).now.port.sampled = s.now.port.sampled := by
    simp only [Port.sampled, event_withRequest req h]
  simp only [Ledger.track, hsampled]
  rfl

/-- Closing the edge carries the request inputs on where the host repeats its cycle, and drops them otherwise. -/
theorem closeEdge_withRequest (u : State) :
    closeEdge (s.withRequest req) (u.withRequest req) =
      if s.repeats then { closeEdge s u with now := (s.withRequest req).now } else closeEdge s u := by
  have hhost : (closeEdge (s.withRequest req) (u.withRequest req)).host = (closeEdge s u).host :=
    track_withRequest req h (s.host.observe s.now.act s.rsp) u.rsp
  calc closeEdge (s.withRequest req) (u.withRequest req)
    _ = { closeEdge s u with now := (s.withRequest req).nextCycle } :=
      congrArg (fun l => { closeEdge s u with host := l, now := (s.withRequest req).nextCycle }) hhost
    _ = _ := by
      rw [nextCycle_withRequest]
      cases s.repeats <;> rfl

end

end Sys2Proof.Machine

namespace Sys2Proof.Proofs

open Sys2Proof.Machine Sys2Proof.Claims

/-- Settles O30: a command's response is a function of the low bits it reads. -/
theorem onlyLowBitsAreRead : Obligations.OnlyLowBitsAreRead := by
  intro i s W value radix hw hv hr
  have hr : takesRadix i = true → lowBits W radix = lowBits W s.now.port.req.radix := fun htakes => by
    obtain hr | hr | hr | hr | hr := hr
    · exact hr
    all_goals (rw [hr] at htakes; cases htakes)
  have hresp : commandResponse s.params.ptrW (withOperands s value radix).now.port.req i =
      commandResponse s.params.ptrW s.now.port.req i := commandResponse_congr hw hv hr
  rw [exec_eq_answer, exec_eq_answer]
  exact ⟨rfl, congrArg (fun r => some (s.pipe.shift (.ofResponse r))) hresp⟩

/-- Settles O42: after LAT edges all LAT stages agree, one more at each edge. -/
theorem pipelineForgetsOlderRequests : Obligations.PipelineForgetsOlderRequests := by
  intro pw p q ports hlat hlen
  have h := take_stages_afterEdges pw ports (k := 0) hlat (by simp)
  rw [Nat.zero_add, hlen] at h
  apply Pipe.ext_stages
  rwa [List.take_of_length_le (by simp), List.take_of_length_le (by simp [hlat])] at h

/-- Settles O44: the ILU's edge passes the request inputs by, and the host's closing carries them on only in a repeated
cycle. -/
theorem requestInputsIgnoredWithoutRequest : Obligations.RequestInputsIgnoredWithoutRequest := by
  intro s req h
  show step (s.withRequest req) = _
  obtain ⟨u, hu⟩ := iluEdge_next s
  unfold step
  rw [stuck_withRequest req h, iluEdge_withRequest req h, hu]
  split
  · rfl
  · exact congrArg Host.Outcome.next (closeEdge_withRequest req h u)

/-- Settles O20: a command is `State.answer` with some response. -/
theorem operationsWriteOnlyThePipeline : Obligations.OperationsWriteOnlyThePipeline := by
  intro i s
  obtain ⟨r, h⟩ := exec_answers i s
  exact ⟨s.answer r, h, rfl, rfl, rfl, rfl, rfl, rfl, rfl, lat_shift _ _⟩

/-- Settles O31: the sampled word decodes to `i`, so the edge is `exec i`, which always answers. -/
theorem stepRunsDecodedCommand : Obligations.StepRunsDecodedCommand := by
  intro s i hr hv hi
  have hstep := step_of_decoded hr hv hi
  obtain ⟨r, hexec⟩ := exec_answers i s
  exact ⟨hstep, s.answer r, hexec, by rw [hstep, hexec, mapNext_next], settle_booted s _⟩

/-- Settles O32: `withFetchWord` drives the request port with the word, and nothing else. -/
theorem placedWordIsSampled : Obligations.PlacedWordIsSampled := by
  intro s w hw
  have hmod : w % 256 = w := Nat.mod_eq_of_lt hw
  refine ⟨?_, rfl, rfl, rfl, rfl, rfl, rfl, fun i hi => ?_⟩
  · simp [State.withFetchWord, State.presentCommand, Port.sampled, Port.event, hmod]
  · exact step_of_decoded rfl rfl (eq_ok_of_decodeTableWord hi)

/-- Settles O36: `State.reset` is written with these values. -/
theorem resetStateValues : Obligations.ResetStateValues := ⟨rfl, rfl, rfl, rfl⟩

/-- Settles O37: one bubble is a legal stage, and no request stands against it. -/
theorem resetStateMeetsInvariants : Obligations.ResetStateMeetsInvariants := ⟨rfl, rfl⟩

end Sys2Proof.Proofs

/-! ### Which request each response answers -/

namespace Sys2Proof.Machine

/-- The stage that answers a request: `EVAL` of it (20_memory.md R45). -/
def evalStage (ptrW : PtrWidth) (q : Request) : Stage := .ofResponse (eval ptrW q)

/-- The stages behind the port that hold a response, oldest first: those in flight. -/
def Pipe.inFlight (p : Pipe) : List Stage := p.stages.dropLast.reverse.filter (·.valid)

/-- The response on the port is the oldest one. -/
theorem answers_eq_last_append_inFlight (p : Pipe) : p.answers = [p.last].filter (·.valid) ++ p.inFlight := by
  rw [Pipe.answers, Pipe.inFlight, stages_eq_dropLast_append, List.reverse_concat, List.dropLast_concat,
    ← List.filter_append, List.singleton_append]

/-- An edge without reset drops the response on the port, and what enters S[1] is the newest one. -/
theorem answers_shift (p : Pipe) (st : Stage) : (p.shift st).answers = p.inFlight ++ [st].filter (·.valid) := by
  rw [Pipe.answers, Pipe.inFlight, stages_shift, List.reverse_cons, List.filter_append]

theorem answers_cleared (p : Pipe) : p.cleared.answers = [] := by
  simp [Pipe.answers, stages_cleared]

/-- A response on the port is one of the answers. -/
theorem answers_ne_nil {s : State} (h : s.rsp.valid = true) : s.pipe.answers ≠ [] :=
  List.ne_nil_of_mem (a := s.rsp) (by simpa [Pipe.answers, h] using rsp_mem_stages s)

/-- Without reset, what enters S[1] holds a response exactly where a request is sampled, and it is `EVAL` of it. -/
theorem filter_stageIn (ptrW : PtrWidth) {port : Port} (hr : port.rst = false) :
    [stageIn ptrW port].filter (·.valid) = port.sampled.toList.map (evalStage ptrW) := by
  cases hv : port.reqValid with
  | true => simp [stageIn, hv, Port.sampled, event_request hr hv, evalStage]
  | false => simp [stageIn, hv, Port.sampled, event_idle hr hv]

theorem matched_iff (s : State) :
    s.matched = true ↔ (s.host.booted = true →
      s.pipe.answers = s.host.awaited.map (evalStage s.params.ptrW) ∧ s.host.shown.isSome = s.rsp.valid) := by
  have hfun : (fun q => Stage.ofResponse (eval s.params.ptrW q)) = evalStage s.params.ptrW := rfl
  cases hb : s.host.booted <;> simp [State.matched, hb, hfun]

/-- In a matched state the port answers the request shown, and the stages in flight answer those outstanding. -/
theorem port_inFlight_of_matched {s : State} (hb : s.host.booted = true) (h : s.matched = true) :
    [s.rsp].filter (·.valid) = s.host.shown.toList.map (evalStage s.params.ptrW) ∧
      s.pipe.inFlight = s.host.outstanding.map (evalStage s.params.ptrW) := by
  obtain ⟨hans, hshown⟩ := (matched_iff s).mp h hb
  rw [answers_eq_last_append_inFlight, Ledger.awaited, List.map_append] at hans
  refine List.append_inj (s₁ := [s.pipe.last].filter (·.valid)) hans ?_
  have hlast : s.pipe.last.valid = s.host.shown.isSome := hshown.symm
  cases hq : s.host.shown <;> rw [hq] at hlast <;> simp [hlast]

/-- In a matched state a response on the port is `EVAL` of the request shown. -/
theorem rsp_eq_evalStage_of_matched {s : State} (hb : s.host.booted = true) (h : s.matched = true)
    (hv : s.rsp.valid = true) : ∃ q, s.host.shown = some q ∧ s.rsp = evalStage s.params.ptrW q := by
  obtain ⟨hport, -⟩ := port_inFlight_of_matched hb h
  cases hq : s.host.shown with
  | none => simp [hq, hv] at hport
  | some q => exact ⟨q, rfl, by simpa [hq, hv] using hport⟩

/-! ### The host's queue across an edge without reset -/

/-- The sampled request joins the queue last, and the request shown before leaves it. -/
theorem awaited_track (l : Ledger) {port : Port} (rsp : Stage) (hr : port.rst = false) :
    (l.track port rsp).awaited = l.outstanding ++ port.sampled.toList := by
  unfold Ledger.track Ledger.awaited
  rw [if_neg (by simp [hr])]
  split
  · cases l.outstanding ++ port.sampled.toList <;> rfl
  · rfl

/-- A request is shown with every response on the port, as long as one awaits it. -/
theorem isSome_shown_track (l : Ledger) {port : Port} {rsp : Stage} (hr : port.rst = false)
    (h : rsp.valid = true → l.outstanding ++ port.sampled.toList ≠ []) :
    (l.track port rsp).shown.isSome = rsp.valid := by
  unfold Ledger.track
  rw [if_neg (by simp [hr])]
  cases hv : rsp.valid with
  | true => exact List.isSome_head?.mpr (h hv)
  | false => rfl

/-- After a reset edge no response is in the pipeline and none is awaited. -/
theorem step_matched_of_reset {s t : State} (hr : s.now.port.rst = true) (h : step s = .next t) : t.matched = true := by
  have hnone : t.pipe.answers = [] := by rw [step_pipe (.inr hr) h, edge_of_reset _ _ hr, answers_cleared]
  have hrsp : t.rsp.valid = false := Bool.eq_false_of_not_eq_true fun hv => answers_ne_nil hv hnone
  obtain ⟨-, u, -, rfl⟩ := step_next h
  rw [matched_iff, hnone, hrsp, closeEdge_host, track_reset _ _ hr]
  exact fun _ => ⟨rfl, rfl⟩

/-- Without reset the stages in flight and the queue of the outstanding move up together, and what the edge samples joins
both. -/
theorem step_keeps_matched_of_no_reset {s t : State} (hb : s.host.booted = true) (hr : s.now.port.rst = false)
    (hs : s.matched = true) (h : step s = .next t) : t.matched = true := by
  obtain ⟨-, hflight⟩ := port_inFlight_of_matched hb hs
  have hans : t.pipe.answers =
      (s.host.outstanding ++ s.now.port.sampled.toList).map (evalStage s.params.ptrW) := by
    rw [step_pipe (.inl hb) h, edge_of_no_reset _ _ hr, answers_shift, hflight, filter_stageIn _ hr, List.map_append]
  obtain ⟨-, u, hu, rfl⟩ := step_next h
  have hptr : (closeEdge s u).params = s.params := (iluEdge_keeps_params_lat hu).1
  refine (matched_iff _).mpr fun _ => ⟨?_, isSome_shown_track _ hr fun hv hnil => ?_⟩
  · rw [hans, hptr, closeEdge_host, awaited_track _ _ hr, observe_outstanding]
  · rw [observe_outstanding] at hnil
    exact answers_ne_nil (s := closeEdge s u) hv (by rw [hans, hnil, List.map_nil])

/-- A step keeps the responses matched; before the first reset edge there is nothing to match. -/
theorem step_keeps_matched {s t : State} (hs : s.matched = true) (h : step s = .next t) : t.matched = true := by
  cases hr : s.now.port.rst with
  | true => exact step_matched_of_reset hr h
  | false =>
    cases hb : s.host.booted with
    | true => exact step_keeps_matched_of_no_reset hb hr hs h
    | false => exact (matched_iff t).mpr fun htb => by simp [step_booted h, hb, hr] at htb

end Sys2Proof.Machine

/-! ### The byte order of the host's mapping -/

namespace Sys2Proof.Claims

open Sys2Proof.Machine

theorem settle_withByteOrder (o : ByteOrder) (s t : State) :
    settle (withByteOrder o s) (withByteOrder o t) = withByteOrder o (settle s t) := by
  cases hb : s.host.booted with
  | true => rw [settle_booted s t hb]; exact settle_booted (withByteOrder o s) _ hb
  | false => rw [settle_unreset s t hb]; exact settle_unreset (withByteOrder o s) _ hb

/-- A sampled word reads `PTR_W` of the parameters, and not the byte order. -/
theorem runCommand_withByteOrder (o : ByteOrder) (s : State) :
    runCommand (withByteOrder o s) s.now.port.req.cmd = mapNext (withByteOrder o) (runCommand s s.now.port.req.cmd) := by
  rw [runCommand_eq_answer s]
  exact runCommand_eq_answer (withByteOrder o s)

/-- The ILU's edge neither reads nor writes the byte order (20_memory.md R41). -/
theorem iluEdge_withByteOrder (o : ByteOrder) (s : State) :
    iluEdge (withByteOrder o s) = mapNext (withByteOrder o) (iluEdge s) := by
  have hport : (withByteOrder o s).now.port = s.now.port := rfl
  obtain ⟨hr, e⟩ | ⟨hr, hv, e⟩ | ⟨hr, hv, r, hrun, e⟩ := iluEdge_cases s
  · rw [e, iluEdge, hport, event_reset hr]
    rfl
  · rw [e, iluEdge, hport, event_idle hr hv]
    exact congrArg Host.Outcome.next (settle_withByteOrder o s s.bubble)
  · rw [e, iluEdge, hport, event_request hr hv]
    show mapNext _ (runCommand (withByteOrder o s) s.now.port.req.cmd) = _
    rw [runCommand_withByteOrder, hrun]
    exact congrArg Host.Outcome.next (settle_withByteOrder o s (s.answer r))

end Sys2Proof.Claims

namespace Sys2Proof.Proofs

open Sys2Proof.Machine Sys2Proof.Claims

/-- Settles O39: the responses in flight answer the outstanding requests, and an edge appends to both what it samples. -/
theorem stepsKeepResponsesMatched : Obligations.StepsKeepResponsesMatched := by
  intro s t hs h
  have ht := step_keeps_matched hs h
  exact ⟨ht, fun hb hv => rsp_eq_evalStage_of_matched hb ht hv⟩

/-- Settles O45: neither the host's wait nor its closing of the edge reads the byte order, and the ILU's edge carries it
on. -/
theorem byteOrderHasNoEffect : Obligations.ByteOrderHasNoEffect := by
  intro s o
  obtain ⟨u, hu⟩ := iluEdge_next s
  have hstuck : (withByteOrder o s).stuck = s.stuck := rfl
  unfold step
  rw [hstuck, iluEdge_withByteOrder, hu]
  split <;> rfl

end Sys2Proof.Proofs

/-! ### The fields of the command byte, the decoder and the encoder -/

namespace Sys2Proof.Machine

theorem toNat_cmdOp (c : Byte) : (cmdOp c).toNat = c.toNat % 8 := by simp [cmdOp]

theorem toNat_cmdWsel (c : Byte) : (cmdWsel c).toNat = c.toNat / 8 % 8 := by
  simp [cmdWsel, Nat.shiftRight_eq_div_pow]

theorem toNat_cmdSgn (c : Byte) : (cmdSgn c).toNat = c.toNat / 64 % 2 := Nat.toNat_testBit c.toNat 6

theorem toNat_cmdNz (c : Byte) : (cmdNz c).toNat = c.toNat / 128 % 2 := Nat.toNat_testBit c.toNat 7

theorem code_ofCode (k : BitVec 3) : (WidthSel.ofCode k).code = k.toNat := by
  obtain (rfl | rfl) | rfl | rfl | rfl | rfl | rfl | rfl := fieldCode_cases k <;> rfl

/-- The two highest codes are the reserved ones (30_encoding.md R52). -/
theorem not_legal_iff (w : WidthSel) : w.legal = false ↔ 6 ≤ w.code := by
  cases w <;> simp [WidthSel.legal, WidthSel.code]

/-- The base of R59 and the op code add up to the byte whose fields they are taken from. -/
theorem base_cmdType_add_cmdOp (c : Byte) : (cmdType c).base + (cmdOp c).toNat = c.toNat := by
  have hc := c.isLt
  simp only [OperandType.base, cmdType, code_ofCode, toNat_cmdNz, toNat_cmdSgn, toNat_cmdWsel, toNat_cmdOp]
  omega

theorem encode_fields (i : Instr) : cmdType (encode i) = i.ty ∧ (cmdOp (encode i)).toNat = i.opCode := by
  cases i with
  | bits ty => exact Laws.EncodeFields.bits ty
  | oct ty => exact Laws.EncodeFields.oct ty
  | hex ty => exact Laws.EncodeFields.hex ty
  | dec ty => exact Laws.EncodeFields.dec ty
  | radix ty => exact Laws.EncodeFields.radix ty
  | radixc ty => exact Laws.EncodeFields.radixc ty

/-- A byte encodes the command whose operand type and op code it holds in its fields, and no other. -/
theorem encode_eq_iff (i : Instr) (c : Byte) : encode i = c ↔ cmdType c = i.ty ∧ (cmdOp c).toNat = i.opCode := by
  constructor
  · rintro rfl
    exact encode_fields i
  · rintro ⟨hty, hop⟩
    rw [encode, ← hty, ← hop, base_cmdType_add_cmdOp, BitVec.ofNat_toNat, BitVec.setWidth_eq]

theorem decode_of_no_row {c : Byte} (h : decodeTable[(cmdOp c).toNat]? = none) : decode c = .error .illOp := by
  simp [decode, find_decodeRow, h]

theorem decode_of_row {c : Byte} {row : DecodeRow} (h : decodeTable[(cmdOp c).toNat]? = some row) :
    decode c = if (cmdType c).wsel.legal then .ok (row.make (cmdType c)) else .error .illWidth := by
  simp [decode, find_decodeRow, h]

theorem decodeTable_eq_none_iff (k : Nat) : decodeTable[k]? = none ↔ 6 ≤ k := List.getElem?_eq_none_iff

theorem opCode_lt (i : Instr) : i.opCode < 6 := by cases i <;> simp [Instr.opCode]

/-- Row number k makes the commands of op code k, of any operand type. -/
theorem make_decodeRow_eq_iff {k : Nat} {row : DecodeRow} (h : decodeTable[k]? = some row) (ty : OperandType)
    (i : Instr) : row.make ty = i ↔ ty = i.ty ∧ k = i.opCode := by
  obtain ⟨hk, rfl⟩ := List.getElem?_eq_some_iff.mp h
  replace hk : k < 6 := hk
  interval_cases k <;> cases i <;> simp [decodeTable, Instr.ty, Instr.opCode]

/-- A byte decodes to a command exactly where the command is legal and its operand type and op code are in the fields. -/
theorem decode_eq_ok_iff (c : Byte) (i : Instr) :
    decode c = .ok i ↔ i.wellFormed = true ∧ cmdType c = i.ty ∧ (cmdOp c).toNat = i.opCode := by
  cases h : decodeTable[(cmdOp c).toNat]? with
  | none =>
    have hop : (cmdOp c).toNat ≠ i.opCode := by
      have := (decodeTable_eq_none_iff _).mp h
      have := opCode_lt i
      omega
    simp [decode_of_no_row h, hop]
  | some row =>
    have hmake := make_decodeRow_eq_iff h (cmdType c) i
    rw [decode_of_row h, ← hmake]
    constructor
    · intro hd
      split at hd
      · next hl =>
        have hi := Except.ok.inj hd
        exact ⟨by rwa [Instr.wellFormed, ← (hmake.mp hi).1], hi⟩
      · cases hd
    · rintro ⟨hwf, hi⟩
      rw [Instr.wellFormed, ← (hmake.mp hi).1] at hwf
      rw [if_pos hwf, hi]

/-- ILL_OP is for the reserved op codes, whatever the width (30_encoding.md R56). -/
theorem decode_eq_illOp_iff (c : Byte) : decode c = .error .illOp ↔ 6 ≤ (cmdOp c).toNat := by
  rw [← decodeTable_eq_none_iff]
  cases h : decodeTable[(cmdOp c).toNat]? with
  | none => simp [decode_of_no_row h]
  | some row => rw [decode_of_row h]; split <;> simp

/-- ILL_WIDTH is for the reserved widths under a legal op code (30_encoding.md R56). -/
theorem decode_eq_illWidth_iff (c : Byte) :
    decode c = .error .illWidth ↔ (cmdOp c).toNat < 6 ∧ 6 ≤ (cmdWsel c).toNat := by
  rw [← code_ofCode (cmdWsel c), ← not_legal_iff, ← Nat.not_le, ← decodeTable_eq_none_iff]
  cases h : decodeTable[(cmdOp c).toNat]? with
  | none => simp [decode_of_no_row h]
  | some row => cases hl : (cmdType c).wsel.legal <;> simp_all [decode_of_row h, cmdType]

end Sys2Proof.Machine

namespace Sys2Proof.Proofs

open Sys2Proof.Machine Sys2Proof.Claims

/-- Settles O1: both sides say that the command is legal and that the byte's fields hold its operand type and op code. -/
theorem decodeAndEncodeAgree : Obligations.DecodeAndEncodeAgree := by
  intro c i
  rw [decode_eq_ok_iff, encode_eq_iff]

/-- Settles O2: the rejections are read off the fields `op` and `wsel`, and the 256 words are counted. -/
theorem reservedWordsRejectedByName : Obligations.ReservedWordsRejectedByName := by
  refine ⟨fun c => ?_, fun c => ?_, rfl, rfl, rfl⟩
  · rw [decode_eq_illOp_iff, toNat_cmdOp]
  · rw [decode_eq_illWidth_iff, toNat_cmdOp, toNat_cmdWsel, Nat.lt_succ_iff]

/-- Settles O3: each byte's fields are computed, and its row of the decode table found. -/
theorem printedWordsDecode : Obligations.PrintedWordsDecode := ⟨rfl, rfl, rfl, rfl, rfl, rfl, rfl⟩

/-- Settles O4: the table's eight codes, read one by one. -/
theorem widthSelectTable : Obligations.WidthSelectTable := ⟨fun _ => rfl, fun _ => ⟨rfl, rfl⟩, rfl⟩

end Sys2Proof.Proofs

/-! ### The operand type: the non-zero flag and the pointer width -/

namespace Sys2Proof.Machine

/-- Of the width select the operand checks read its width only. -/
theorem checkOperand_congr_wsel {ptrW : PtrWidth} (nz sgn : Bool) {w w' : WidthSel} (req : Request)
    (k : Width → Nat → Response) (h : widthOf ptrW w = widthOf ptrW w') :
    checkOperand ptrW ⟨nz, sgn, w⟩ req k = checkOperand ptrW ⟨nz, sgn, w'⟩ req k := by
  simp only [checkOperand, h]

/-- What a command answers to a request that has passed the operand checks, from W and p. -/
def checkedResponse (req : Request) : Instr → Width → Nat → Response
  | .bits ty => fun W p => respondOk (bitsCount W ty.sgn p)
  | .oct ty => fun W p => respondOk (octCount W ty.sgn p)
  | .hex ty => fun W p => respondOk (hexCount W ty.sgn p)
  | .dec ty => fun W p => respondOk (decCount W ty.sgn p)
  | .radix ty => fun W p => radixResponse .radixFail W ty.sgn p (lowBits W req.radix)
  | .radixc ty => fun W p => radixResponse .absent W ty.sgn p (lowBits W req.radix)

/-- Every command is its operand checks, with its own response behind them. -/
theorem exec_eq_evaluate (i : Instr) (s : State) :
    exec i s = .next (s.evaluate i.ty (checkedResponse s.now.port.req i)) := by
  cases i <;> rfl

end Sys2Proof.Machine

namespace Sys2Proof.Claims

open Sys2Proof.Machine

theorem operation_cases {op : OperandType → Instr} (hop : op ∈ operations) :
    op = .bits ∨ op = .oct ∨ op = .hex ∨ op = .dec ∨ op = .radix ∨ op = .radixc := by
  simpa [operations] using hop

theorem ty_operation {op : OperandType → Instr} (hop : op ∈ operations) (ty : OperandType) : (op ty).ty = ty := by
  obtain rfl | rfl | rfl | rfl | rfl | rfl := operation_cases hop <;> rfl

/-- Behind the operand checks an operation reads the signedness of its operand type, and neither `nz` nor `wsel`. -/
theorem checkedResponse_congr {op : OperandType → Instr} (hop : op ∈ operations) (req : Request) {ty ty' : OperandType}
    (h : ty.sgn = ty'.sgn) : checkedResponse req (op ty) = checkedResponse req (op ty') := by
  obtain rfl | rfl | rfl | rfl | rfl | rfl := operation_cases hop <;> simp only [checkedResponse, h]

/-- An operation is the operand checks of its type, with a response behind them that depends on the signedness only. -/
theorem exec_operation {op : OperandType → Instr} (hop : op ∈ operations) (s : State) (sgn : Bool) :
    ∃ k, ∀ nz w, exec (op ⟨nz, sgn, w⟩) s = .next (s.evaluate ⟨nz, sgn, w⟩ k) := by
  refine ⟨checkedResponse s.now.port.req (op ⟨false, sgn, .w8⟩), fun nz w => ?_⟩
  rw [exec_eq_evaluate, ty_operation hop, 
    checkedResponse_congr hop _ (ty := ⟨nz, sgn, w⟩) (ty' := ⟨false, sgn, .w8⟩) rfl]

end Sys2Proof.Claims

namespace Sys2Proof.Proofs

open Sys2Proof.Machine Sys2Proof.Claims

/-- Settles O28: `nz` is read by the operand check alone, which looks whether the value is 0. -/
theorem nonZeroFlag : Obligations.NonZeroFlag := by
  intro op hop s sgn w W hw
  obtain ⟨k, hk⟩ := exec_operation hop s sgn
  have hcheck (nz : Bool) := checkOperand_of_width (ty := ⟨nz, sgn, w⟩) s.now.port.req k hw
  constructor
  · intro hv
    replace hv : lowBits W s.now.port.req.value ≠ 0 := hv
    simp [hk, State.evaluate, hcheck, hv]
  · intro hv
    replace hv : lowBits W s.now.port.req.value = 0 := hv
    rw [hk, State.evaluate, hcheck, hv]
    rfl

/-- Settles O29: the two width selects have the same width, the one thing that is read of them. -/
theorem pointerWidthIsAnAlias : Obligations.PointerWidthIsAnAlias := by
  intro op hop s nz sgn
  obtain ⟨k, hk⟩ := exec_operation hop s sgn
  have hexec {w : WidthSel} (h : widthOf s.params.ptrW .ptr = widthOf s.params.ptrW w) :
      exec (op ⟨nz, sgn, .ptr⟩) s = exec (op ⟨nz, sgn, w⟩) s := by
    rw [hk, hk, State.evaluate, State.evaluate, checkOperand_congr_wsel nz sgn _ k h]
  refine ⟨fun hp => hexec ?_, fun hp => hexec ?_, fun hp => hexec ?_⟩ <;> rw [hp] <;> rfl

end Sys2Proof.Proofs

/-! ### The assembler's literals -/

namespace Sys2Proof.Machine

theorem legal_of_widthOf {ptrW : PtrWidth} {w : WidthSel} {W : Width} (h : widthOf ptrW w = some W) : w.legal = true :=
  Bool.eq_true_of_not_eq_false fun hl => by simp [(widthOf_eq_none ptrW w).mpr hl] at h

/-- Twice the weight of the sign bit is 2^W. -/
theorem two_pow_bits (W : Width) : 2 ^ W.bits = 2 * 2 ^ (W.bits - 1) := by cases W <;> rfl

/-- A number below 2^W fits a bus. -/
theorem toNat_bus_of_lt {W : Width} {n : Nat} (h : n < 2 ^ W.bits) : (BitVec.ofNat 128 n).toNat = n := by
  rw [BitVec.toNat_ofNat]
  exact Nat.mod_eq_of_lt (Nat.lt_of_lt_of_le h (Nat.pow_le_pow_right (by decide) (bits_le W)))

/-- Below 2^(W-1) a pattern reads as itself (00_scope.md R9). -/
theorem sval_of_lt {p W : Nat} (h : p < 2 ^ (W - 1)) : sval p W = p := by
  simp [sval, Nat.testBit_lt_two_pow h]

/-- From 2^(W-1) on a pattern reads as a negative number (00_scope.md R9). -/
theorem sval_of_ge {p W : Nat} (hW : 1 ≤ W) (h : 2 ^ (W - 1) ≤ p) (hp : p < 2 ^ W) : sval p W = (p : Int) - 2 ^ W := by
  have hbit := Nat.testBit_of_two_pow_le_and_two_pow_add_one_gt h (by rwa [Nat.sub_add_cancel hW])
  simp [sval, hbit]

/-- A pattern is the residue of its literal modulo 2^W. -/
theorem cast_pattern (W : Width) (v : Int) : (pattern W v : Int) = v % 2 ^ W.bits :=
  Int.toNat_of_nonneg (Int.emod_nonneg v (pow_ne_zero _ (by decide)))

theorem pattern_lt (W : Width) (v : Int) : pattern W v < 2 ^ W.bits := by
  have h : (pattern W v : Int) < 2 ^ W.bits := by
    rw [cast_pattern]
    exact Int.emod_lt_of_pos v (pow_pos (by decide) _)
  exact_mod_cast h

theorem pattern_of_nonneg {W : Width} {v : Int} (h0 : 0 ≤ v) (h : v < 2 ^ W.bits) : (pattern W v : Int) = v := by
  rw [cast_pattern, Int.emod_eq_of_lt h0 h]

theorem pattern_of_neg {W : Width} {v : Int} (h0 : v < 0) (h : -(2 ^ W.bits) ≤ v) :
    (pattern W v : Int) = v + 2 ^ W.bits := by
  rw [cast_pattern, ← Int.add_emod_right, Int.emod_eq_of_lt (by omega) (by omega)]

/-- The pattern of a signed literal in range reads back as the literal. -/
theorem sval_pattern {W : Width} {v : Int} (hlow : -(2 ^ (W.bits - 1)) ≤ v) (hhigh : v < 2 ^ (W.bits - 1)) :
    sval (pattern W v) W.bits = v := by
  have hhalf : (2 : Int) ^ W.bits = 2 * 2 ^ (W.bits - 1) := by exact_mod_cast two_pow_bits W
  rcases Int.lt_or_le v 0 with hneg | hnonneg
  · have hp : (pattern W v : Int) = v + 2 ^ W.bits := pattern_of_neg hneg (by omega)
    have hge : (2 : Int) ^ (W.bits - 1) ≤ pattern W v := by omega
    rw [sval_of_ge (one_le_bits W) (by exact_mod_cast hge) (pattern_lt W v), hp, Int.add_sub_cancel]
  · have hp : (pattern W v : Int) = v := pattern_of_nonneg hnonneg (by omega)
    have hlt : (pattern W v : Int) < 2 ^ (W.bits - 1) := by omega
    rw [sval_of_lt (by exact_mod_cast hlt), hp]

/-- The range check in the words of R60: the type's range, and no 0 under `nz`. -/
theorem valueInRange_iff (W : Width) (ty : OperandType) (v : Int) :
    valueInRange W ty v = true ↔
      (ty.sgn = true → -(2 ^ (W.bits - 1) : Int) ≤ v ∧ v < 2 ^ (W.bits - 1)) ∧
      (ty.sgn = false → 0 ≤ v ∧ v < 2 ^ W.bits) ∧ (ty.nz = true → v ≠ 0) := by
  unfold valueInRange
  cases ty.sgn <;> cases ty.nz <;> simp

theorem takesRadix_iff (i : Instr) : takesRadix i = true ↔ i = .radix i.ty ∨ i = .radixc i.ty := by
  cases i <;> simp [takesRadix, Instr.ty]

theorem not_takesRadix_iff (i : Instr) :
    takesRadix i = false ↔ i = .bits i.ty ∨ i = .oct i.ty ∨ i = .hex i.ty ∨ i = .dec i.ty := by
  cases i <;> simp [takesRadix, Instr.ty]

/-- The radix on the bus: the literal, below 2^W, where the command takes one, and 0 where it is given none. -/
theorem radixLiteral_eq_some_iff (W : Width) (i : Instr) (radix : Option Nat) (r : Nat) :
    radixLiteral W i radix = some r ↔
      (takesRadix i = true → radix = some r ∧ r < 2 ^ W.bits) ∧ (takesRadix i = false → radix = none ∧ r = 0) := by
  unfold radixLiteral
  cases takesRadix i with
  | false => cases radix <;> simp [eq_comm]
  | true =>
    cases radix with
    | none => simp
    | some r' =>
      have : r' = r → (r' < 2 ^ W.bits ↔ r < 2 ^ W.bits) := by rintro rfl; rfl
      simpa [and_comm] using this

/-- A radix literal that reaches the bus reaches it unchanged, and fits the width. -/
theorem radixLiteral_value {W : Width} {i : Instr} {radix : Option Nat} {r : Nat} (h : radixLiteral W i radix = some r) :
    r < 2 ^ W.bits ∧ r = radix.getD 0 := by
  obtain ⟨htakes, hnone⟩ := (radixLiteral_eq_some_iff W i radix r).mp h
  cases ht : takesRadix i with
  | true => obtain ⟨rfl, hr⟩ := htakes ht; exact ⟨hr, rfl⟩
  | false => obtain ⟨rfl, rfl⟩ := hnone ht; exact ⟨Nat.two_pow_pos _, rfl⟩

/-- A radix literal is given exactly where the command takes one, and is below 2^W. -/
theorem exists_radixLiteral_iff (W : Width) (i : Instr) (radix : Option Nat) :
    (∃ r, radixLiteral W i radix = some r) ↔
      (takesRadix i = true → ∃ r, radix = some r ∧ r < 2 ^ W.bits) ∧ (takesRadix i = false → radix = none) := by
  simp only [radixLiteral_eq_some_iff]
  cases takesRadix i <;> simp

/-- A command of a legal width assembles exactly where its literals do, to its byte and their patterns (30_encoding.md
R60). -/
theorem assemble_cnt_eq_some_iff {pw : PtrWidth} {i : Instr} {W : Width} (hw : widthOf pw i.ty.wsel = some W) (v : Int)
    (radix : Option Nat) (q : Request) :
    assemble pw (.cnt i v radix) = some q ↔ valueInRange W i.ty v = true ∧ ∃ r, radixLiteral W i radix = some r ∧
      { cmd := encode i, value := BitVec.ofNat 128 (pattern W v), radix := BitVec.ofNat 128 r } = q := by
  unfold assemble
  simp [hw]

end Sys2Proof.Machine

namespace Sys2Proof.Proofs

open Sys2Proof.Machine Sys2Proof.Claims

/-- Settles O54: the assembler's two checks in the words of R60, and what their literals become on the buses. -/
theorem assemblerPlacesOperands : Obligations.AssemblerPlacesOperands := by
  intro pw i v radix W hw
  have hasm := assemble_cnt_eq_some_iff hw v radix
  constructor
  · have hnat (r : Nat) : r ≤ 2 ^ W.bits - 1 ↔ r < 2 ^ W.bits := Nat.le_sub_one_iff_lt (Nat.two_pow_pos _)
    have haccept : (assemble pw (.cnt i v radix)).isSome = true ↔
        valueInRange W i.ty v = true ∧ ∃ r, radixLiteral W i radix = some r := by
      simp [Option.isSome_iff_exists, hasm]
    rw [haccept, valueInRange_iff, exists_radixLiteral_iff, takesRadix_iff, not_takesRadix_iff]
    simp only [hnat, Int.le_sub_one_iff, and_assoc]
  · intro q hq
    obtain ⟨hv, r, hr, rfl⟩ := (hasm q).mp hq
    obtain ⟨hsigned, hunsigned, -⟩ := (valueInRange_iff W i.ty v).mp hv
    obtain ⟨hrW, hrval⟩ := radixLiteral_value hr
    have hwf : i.wellFormed = true := legal_of_widthOf hw
    simp only [toNat_bus_of_lt (pattern_lt W v), toNat_bus_of_lt hrW]
    refine ⟨(decodeAndEncodeAgree _ i).mpr ⟨hwf, rfl⟩, pattern_lt W v, fun hs => ?_, fun hs => ?_, hrval⟩
    · obtain ⟨hlow, hhigh⟩ := hsigned hs
      exact sval_pattern hlow hhigh
    · obtain ⟨h0, hhigh⟩ := hunsigned hs
      exact pattern_of_nonneg h0 hhigh

end Sys2Proof.Proofs

/-! ### The integer logarithm and its circuit -/

namespace Sys2Proof.Machine

/-- The loop started at b^(k+1), with b^k already reached and fuel for every power up to m, counts up to `Nat.log`. -/
theorem add_ilogUp_eq_log {b m : Nat} (fuel k : Nat) (hlow : b ^ k ≤ m) (hfuel : m < b ^ (k + 1 + fuel)) :
    k + ilogUp b m fuel (b ^ (k + 1)) = Nat.log b m := by
  induction fuel generalizing k with
  | zero => exact (Nat.log_eq_of_pow_le_of_lt_pow hlow hfuel).symm
  | succ fuel ih =>
    rcases Nat.lt_or_ge m (b ^ (k + 1)) with h | h
    · rw [ilogUp_of_lt h]
      exact (Nat.log_eq_of_pow_le_of_lt_pow hlow h).symm
    · rw [ilogUp_of_le h, ← pow_succ, ← ih (k + 1) h (by rwa [Nat.add_right_comm (k + 1)])]
      omega

/-- The loop of `ilog`, with enough fuel, is the integer logarithm (40_datapath.md R75). -/
theorem ilogUp_eq_log {b m fuel : Nat} (hb : 1 < b) (hm : m ≠ 0) (hfuel : m < 2 ^ (fuel + 1)) :
    ilogUp b m fuel b = Nat.log b m := by
  have hpow : m < b ^ (0 + 1 + fuel) := by
    rw [Nat.zero_add, Nat.add_comm]
    exact Nat.lt_of_lt_of_le hfuel (Nat.pow_le_pow_left hb _)
  simpa using add_ilogUp_eq_log fuel 0 (Nat.one_le_iff_ne_zero.mpr hm) hpow

theorem ilog_eq_log {b m : Nat} (hb : 1 < b) (hm : m ≠ 0) : ilog b m = Nat.log b m :=
  ilogUp_eq_log hb hm Nat.lt_log2_self

/-- The zero fallback of R76 is where `Nat.log` is 0 too. -/
theorem countDigits_eq_log {b : Nat} (hb : 1 < b) (m : Nat) : countDigits b m = Nat.log b m + 1 := by
  rcases Nat.eq_zero_or_pos m with rfl | h
  · simp
  · rw [countDigits_pos h.ne', ilog_eq_log hb h.ne', Nat.add_comm]

/-- Started from a clamped power, the saturating loop takes the turns of the exact one: the clamp 2^W is above every
W-bit magnitude (40_datapath.md R77). -/
theorem ilogSatUp_min_eq {W b m : Nat} (hm : m < 2 ^ W) (fuel pw : Nat) :
    ilogSatUp W b m fuel (min pw (2 ^ W)) = ilogUp b m fuel pw := by
  induction fuel generalizing pw with
  | zero => rfl
  | succ fuel ih =>
    rcases Nat.lt_or_ge m pw with h | h
    · rw [ilogUp_of_lt h, ilogSatUp_of_lt (Nat.lt_min.mpr ⟨h, hm⟩)]
    · rw [ilogUp_of_le h, Nat.min_eq_left (Nat.le_of_lt (Nat.lt_of_le_of_lt h hm)), ilogSatUp_of_le h, satMul, ih]

theorem ilogSat_eq_log {W b m : Nat} (hb : 1 < b) (hbW : b < 2 ^ W) (hm : m ≠ 0) (hmW : m < 2 ^ W) :
    ilogSat W b m = Nat.log b m := by
  have hexact := ilogSatUp_min_eq (b := b) hmW W b
  rw [Nat.min_eq_left (Nat.le_of_lt hbW)] at hexact
  rw [ilogSat, hexact]
  exact ilogUp_eq_log hb hm (Nat.lt_trans hmW (Nat.pow_lt_pow_succ (by decide)))

end Sys2Proof.Machine

namespace Sys2Proof.Proofs

open Sys2Proof.Machine Sys2Proof.Claims

/-- Settles O5: the loop is `Nat.log`, which the two inequalities determine. -/
theorem ilogIsExact : Obligations.IlogIsExact := by
  intro b m hb hm k
  have hm0 : m ≠ 0 := by omega
  rw [ilog_eq_log hb hm0]
  exact Nat.log_eq_iff (.inr ⟨hb, hm0⟩)

/-- Settles O6: both loops are `Nat.log`; the saturating one takes the same turns. -/
theorem saturatingIlogRefinesIlog : Obligations.SaturatingIlogRefinesIlog := by
  intro W b m hb hbW hm hmW
  have hm0 : m ≠ 0 := by omega
  rw [ilogSat_eq_log hb hbW hm0 hmW, ilog_eq_log hb hm0]

end Sys2Proof.Proofs

/-! ### The leading-zero counter, the bit length and the fast paths -/

namespace Sys2Proof.Machine

theorem clz_zero (W : Nat) : clz 0 W = W := by
  induction W with
  | zero => rfl
  | succ W ih => rw [clz_succ_of_clear (Nat.zero_testBit W), ih]

/-- The zero bits counted, the highest set bit and the bits below it are all W bits (40_datapath.md R73). -/
theorem clz_add_log {p W : Nat} (h0 : p ≠ 0) (hp : p < 2 ^ W) : clz p W + (Nat.log 2 p + 1) = W := by
  induction W with
  | zero => omega
  | succ W ih =>
    rcases Nat.lt_or_ge p (2 ^ W) with h | h
    · rw [clz_succ_of_clear (Nat.testBit_lt_two_pow h), Nat.add_right_comm, ih h]
    · rw [clz_succ_of_set (Nat.testBit_of_two_pow_le_and_two_pow_add_one_gt h hp),
        Nat.log_eq_of_pow_le_of_lt_pow h hp, Nat.zero_add]

theorem bitlen_zero (W : Nat) : bitlen W 0 = 0 := by rw [bitlen, clz_zero, Nat.sub_self]

theorem bitlen_eq_log {p W : Nat} (h0 : p ≠ 0) (hp : p < 2 ^ W) : bitlen W p = Nat.log 2 p + 1 := by
  have h := clz_add_log h0 hp
  rw [bitlen]
  omega

/-- A pattern has no bit at or above its bit length. -/
theorem lt_two_pow_bitlen {p W : Nat} (hp : p < 2 ^ W) : p < 2 ^ bitlen W p := by
  rcases Nat.eq_zero_or_pos p with rfl | h0
  · exact Nat.two_pow_pos _
  · rw [bitlen_eq_log h0.ne' hp]
    exact Nat.lt_pow_succ_log_self (by decide) p

/-- Bit number floor(log2 p) of p is set. -/
theorem testBit_log_two {p : Nat} (h0 : p ≠ 0) : p.testBit (Nat.log 2 p) = true :=
  Nat.testBit_of_two_pow_le_and_two_pow_add_one_gt (Nat.pow_log_le_self 2 h0) (Nat.lt_pow_succ_log_self (by decide) p)

/-- The small divide of the fast path rounds up (40_datapath.md R78). -/
theorem fastCount_eq_ceil (W m : Nat) {t : Nat} (ht : 0 < t) : fastCount W t m = ⌈(bitlen W m : ℚ) / t⌉₊ := by
  have htQ : (0 : ℚ) < t := by exact_mod_cast ht
  refine eq_of_forall_ge_iff fun c => ?_
  have hdiv : fastCount W t m ≤ c ↔ bitlen W m ≤ c * t := by
    rw [Nat.mul_comm]; exact ceilDiv_le_iff_le_mul ht
  rw [hdiv, Nat.ceil_le, div_le_iff₀ htQ]
  norm_cast

/-- One more than the logarithm in base 2^t is the bit length divided by t and rounded up (40_datapath.md R78). -/
theorem fastCount_eq_ilog {W m t : Nat} (ht : 0 < t) (h0 : m ≠ 0) (hm : m < 2 ^ W) :
    fastCount W t m = 1 + ilog (2 ^ t) m := by
  have hsum : Nat.log 2 m + 1 + t - 1 = Nat.log 2 m + t := by omega
  rw [fastCount, bitlen_eq_log h0 hm, hsum, Nat.add_div_right _ ht, ilog_eq_log (Nat.one_lt_two_pow ht.ne') h0,
    Nat.log_pow_left, Nat.add_comm 1]

end Sys2Proof.Machine

namespace Sys2Proof.Proofs

open Sys2Proof.Machine Sys2Proof.Claims

/-- Settles O8: p lies below 2^BITLEN, and its highest set bit is number floor(log2 p). -/
theorem leadingZerosAndBitLength : Obligations.LeadingZerosAndBitLength := by
  intro W p hp
  refine ⟨fun i hi _ => ?_, fun h0 => ?_, ?_, rfl⟩
  · exact Nat.testBit_lt_two_pow (Nat.lt_of_lt_of_le (lt_two_pow_bitlen hp) (Nat.pow_le_pow_right (by decide) hi))
  · have hclz := clz_add_log h0 hp
    have htop : W - 1 - clz p W = Nat.log 2 p := by omega
    refine ⟨by omega, ?_, ?_⟩
    · rw [htop, testBit_log_two h0]
    · rw [bitlen_eq_log h0 hp, ilog_eq_log (by decide) h0, Nat.add_comm]
  · rintro rfl
    exact ⟨clz_zero W, bitlen_zero W⟩

/-- Settles O7: the small divide is the ceiling, and the logarithm in base 2^t is the one in base 2 divided by t. -/
theorem fastPathsCountDigits : Obligations.FastPathsCountDigits := by
  intro W t m ht hm hmW
  have ht0 : 0 < t := by omega
  have hceil := fastCount_eq_ceil W.bits m ht0
  exact ⟨by rw [← fastCount_eq_ilog ht0 (by omega) hmW, hceil], hceil⟩

end Sys2Proof.Proofs

/-! ### The sign test and the magnitude -/

namespace Sys2Proof.Machine

/-- The sign bit is set exactly from 2^(W-1) on (40_datapath.md R70). -/
theorem neg_eq_true_iff {p W : Nat} (sgn : Bool) (hW : 1 ≤ W) (hp : p < 2 ^ W) :
    neg p W sgn = true ↔ sgn = true ∧ 2 ^ (W - 1) ≤ p := by
  have hbit : p.testBit (W - 1) = true ↔ 2 ^ (W - 1) ≤ p :=
    ⟨Nat.ge_two_pow_of_testBit, fun h =>
      Nat.testBit_of_two_pow_le_and_two_pow_add_one_gt h (by rwa [Nat.sub_add_cancel hW])⟩
  rw [neg, Bool.and_eq_true, hbit]

/-- The signed reading is below 0 exactly from 2^(W-1) on (00_scope.md R9). -/
theorem sval_lt_zero_iff {p W : Nat} (hW : 1 ≤ W) (hp : p < 2 ^ W) : sval p W < 0 ↔ 2 ^ (W - 1) ≤ p := by
  rcases Nat.lt_or_ge p (2 ^ (W - 1)) with h | h
  · rw [sval_of_lt h]
    omega
  · have hpZ : (p : Int) < 2 ^ W := by exact_mod_cast hp
    rw [sval_of_ge hW h hp]
    omega

end Sys2Proof.Machine

namespace Sys2Proof.Proofs

open Sys2Proof.Machine Sys2Proof.Claims

/-- Settles O9: sign bit and signed reading both turn negative at 2^(W-1), where the magnitude is 2^W - p. -/
theorem magnitudeIsExact : Obligations.MagnitudeIsExact := by
  intro W p sgn hp
  have hW := one_le_bits W
  have hhalf := two_pow_bits W
  have hneg {q : Nat} (sgn : Bool) (hq : q < 2 ^ W.bits) := neg_eq_true_iff sgn hW hq
  refine ⟨by rw [hneg sgn hp, sval_lt_zero_iff hW hp], fun h => ?_, mag_of_not_neg, ?_⟩
  · obtain ⟨-, hge⟩ := (hneg sgn hp).mp h
    rw [mag_of_neg h, sval_of_ge hW hge hp]
    refine ⟨?_, by omega, by omega⟩
    rw [Nat.cast_sub hp.le]
    push_cast
    ring
  · have hmin : 2 ^ (W.bits - 1) < 2 ^ W.bits := minMag_lt hW
    rw [mag_of_neg ((hneg true hmin).mpr ⟨rfl, le_rfl⟩)]
    omega

end Sys2Proof.Proofs

/-! ### The MIN digit table -/

namespace Sys2Proof.Machine

theorem minDig_eq_log {b : Nat} (hb : 1 < b) (W : Nat) : minDig W b = Nat.log b (2 ^ (W - 1)) + 1 :=
  countDigits_eq_log hb _

/-- Between two powers of b around 2^(W-1) the table holds the exponent of the upper one. -/
theorem minDig_eq_iff {b : Nat} (hb : 1 < b) (W d : Nat) :
    minDig W b = d + 1 ↔ b ^ d ≤ 2 ^ (W - 1) ∧ 2 ^ (W - 1) < b ^ (d + 1) := by
  rw [minDig_eq_log hb, Nat.add_right_cancel_iff]
  exact Nat.log_eq_iff (.inr ⟨hb, (Nat.two_pow_pos _).ne'⟩)

theorem minDig_of_gt {W b : Nat} (h : 2 ^ (W - 1) < b) : minDig W b = 1 := by
  have hpos := Nat.two_pow_pos (W - 1)
  rw [minDig_eq_log (by omega), Nat.log_of_lt h]

/-- Four radices have a path of their own, the others share the general one (40_datapath.md R81). -/
theorem dispatch_eq_gen_iff (r : Nat) : dispatch r = .gen ↔ r ≠ 2 ∧ r ≠ 8 ∧ r ≠ 10 ∧ r ≠ 16 := by
  constructor
  · intro h
    refine ⟨?_, ?_, ?_, ?_⟩ <;> rintro rfl <;> exact absurd h (by decide)
  · rintro ⟨h2, h8, h10, h16⟩
    exact dispatch_gen h2 h8 h10 h16

/-- The printed rows hold the logarithms of the MIN magnitudes. -/
theorem minDigRows_eq_log :
    ∀ row ∈ minDigRows, 1 < row.1 ∧ row.2 = [8, 16, 32, 64, 128].map fun W => Nat.log row.1 (2 ^ (W - 1)) + 1 := by
  decide

end Sys2Proof.Machine

namespace Sys2Proof.Proofs

open Sys2Proof.Machine Sys2Proof.Claims

/-- Settles O10: the printed rows are logarithms of 2^(W-1), every other entry by the two powers of b around 2^(W-1). -/
theorem minDigitTable : Obligations.MinDigitTable := by
  refine ⟨⟨by decide, fun row hrow => ?_⟩, fun _ _ => minDig_of_gt,
    fun b => ⟨fun hl hh => ?_, fun hl hh => ?_, minDig_of_gt (W := 8)⟩, dispatch_eq_gen_iff⟩
  · obtain ⟨hb, hlogs⟩ := minDigRows_eq_log row hrow
    simpa only [minDig_eq_log hb] using hlogs
  · exact (minDig_eq_iff (by omega) 8 2).mpr ⟨(Nat.pow_le_pow_left hh 2).trans (by decide),
      Nat.lt_of_lt_of_le (by decide) (Nat.pow_le_pow_left hl 3)⟩
  · exact (minDig_eq_iff (by omega) 8 1).mpr ⟨(Nat.pow_le_pow_left hh 1).trans (by decide),
      Nat.lt_of_lt_of_le (by decide) (Nat.pow_le_pow_left hl 2)⟩

end Sys2Proof.Proofs

/-! ### The range of the counts -/

namespace Sys2Proof.Machine

/-- The response is no OK, or its count fits the width. -/
def OkCountFits (W : Width) (r : Response) : Prop := r.status = .ok → CountFits W r.count.toNat

theorem okCountFits_raiseStatus (W : Width) {st : Status} (h : st ≠ .ok) : OkCountFits W (raiseStatus st) :=
  fun hok => absurd hok h

theorem okCountFits_respondOk {W : Width} {n : Nat} (h : CountFits W n) : OkCountFits W (respondOk n) := by
  intro _
  have hn : n < 2 ^ 8 := Nat.lt_of_le_of_lt (h.right.trans (bits_le W)) (by decide)
  rwa [respondOk, BitVec.toNat_ofNat, Nat.mod_eq_of_lt hn]

theorem okCountFits_radixResponse {below : Status} (hbelow : below ≠ .ok) (W : Width) (sgn : Bool) (r : Nat) {p : Nat}
    (hp : p < 2 ^ W.bits) : OkCountFits W (radixResponse below W sgn p r) := by
  unfold radixResponse
  split
  · exact okCountFits_raiseStatus W hbelow
  · exact okCountFits_respondOk (countFits_radixCount W sgn r hp)

theorem okCountFits_eval (ptrW : PtrWidth) (req : Request) :
    OkCountFits (evalWidth ptrW (cmdWsel req.cmd)) (eval ptrW req) := by
  have hp := lowBits_lt (evalWidth ptrW (cmdWsel req.cmd)) req.value
  unfold eval
  dsimp only
  split
  · exact okCountFits_raiseStatus _ (by decide)
  split
  · exact okCountFits_raiseStatus _ (by decide)
  split
  · exact okCountFits_raiseStatus _ (by decide)
  split
  · exact okCountFits_respondOk (countFits_bitsCount _ _ hp)
  · exact okCountFits_respondOk (countFits_octCount _ _ hp)
  · exact okCountFits_respondOk (countFits_hexCount _ _ hp)
  · exact okCountFits_respondOk (countFits_decCount _ _ hp)
  · exact okCountFits_radixResponse (by decide) _ _ _ hp
  · exact okCountFits_radixResponse (by decide) _ _ _ hp

/-- A pattern with its top bit set counts W bits, read as signed or as unsigned (41_pow2_counts.md R90). -/
theorem bitsCount_of_top_bit {W : Width} (sgn : Bool) {p : Nat} (hlow : 2 ^ (W.bits - 1) ≤ p) (hp : p < 2 ^ W.bits) :
    bitsCount W sgn p = W.bits := by
  have hW := one_le_bits W
  unfold bitsCount
  split
  · rfl
  · rw [countDigits_eq_log (by decide), Nat.log_eq_of_pow_le_of_lt_pow hlow (by rwa [Nat.sub_add_cancel hW]),
      Nat.sub_add_cancel hW]

/-- `EVAL` of an encoded legal command is the command's own response. -/
theorem eval_encode (ptrW : PtrWidth) {i : Instr} (hwf : i.wellFormed = true) (value radix : Bus) :
    eval ptrW { cmd := encode i, value := value, radix := radix } =
      commandResponse ptrW { cmd := encode i, value := value, radix := radix } i := by
  have hdec : decode (encode i) = .ok i := (decode_eq_ok_iff _ i).mpr ⟨hwf, encode_fields i⟩
  rw [← requestResponse_eq_eval]
  simp [requestResponse, hdec]

end Sys2Proof.Machine

namespace Sys2Proof.Proofs

open Sys2Proof.Machine Sys2Proof.Claims

/-- Settles O12: every operation's count fits its width, and a 128-bit pattern with its top bit set counts 128 bits. -/
theorem countRange : Obligations.CountRange := by
  refine ⟨fun pw q hok => ?_, fun pw ty value radix hw hv => ?_⟩
  · obtain ⟨hlow, hhigh⟩ := okCountFits_eval pw q hok
    exact ⟨hlow, hhigh, bits_le _⟩
  · have hwidth : widthOf pw ty.wsel = some .w128 := by rw [hw]; rfl
    have hbits : lowBits .w128 value = value.toNat := Nat.mod_eq_of_lt value.isLt
    have hpos : value.toNat ≠ 0 := by omega
    rw [eval_encode pw (legal_of_widthOf hwidth), commandResponse, checkOperand_of_width _ _ hwidth, hbits]
    simp [hpos, bitsCount_of_top_bit (W := .w128) ty.sgn hv value.isLt, respondOk, Width.bits]

end Sys2Proof.Proofs

/-! ### The counts in bases 2, 8 and 16 -/

namespace Sys2Proof.Machine

/-- A digit in base 2^t is t binary digits. -/
theorem countDigits_two_pow {t : Nat} (ht : 0 < t) (p : Nat) : countDigits (2 ^ t) p = Nat.log 2 p / t + 1 := by
  rw [countDigits_eq_log (Nat.one_lt_two_pow ht.ne'), Nat.log_pow_left]

/-- The bit length, with at least one bit, is one more than the logarithm, for p = 0 too. -/
theorem max_one_bitlen {p W : Nat} (hp : p < 2 ^ W) : max 1 (bitlen W p) = Nat.log 2 p + 1 := by
  rcases Nat.eq_zero_or_pos p with rfl | h0
  · simp [bitlen_zero]
  · rw [bitlen_eq_log h0.ne' hp]
    omega

theorem log_two_of_top_bit {W : Width} {p : Nat} (hlow : 2 ^ (W.bits - 1) ≤ p) (hp : p < 2 ^ W.bits) :
    Nat.log 2 p = W.bits - 1 :=
  Nat.log_eq_of_pow_le_of_lt_pow hlow (by rwa [Nat.sub_add_cancel (one_le_bits W)])

/-- NEGOCT is W divided by 3 and rounded up (41_pow2_counts.md R93). -/
theorem negOct_eq (W : Width) : negOct W = (W.bits + 2) / 3 := by cases W <;> rfl

/-- NEGHEX is W divided by 4 (41_pow2_counts.md R93). -/
theorem negHex_eq (W : Width) : negHex W = W.bits / 4 := by cases W <;> rfl

/-- Every width is a whole number of base-16 digits. -/
theorem four_dvd_bits (W : Width) : 4 ∣ W.bits := by cases W <;> decide

/-- A fixed negative count that is the count of a pattern of W bits makes the sign test disappear: a negative value has its
top bit set, so that its pattern has W bits. -/
theorem ite_neg_eq_log {W : Width} {sgn : Bool} {p t c : Nat} (ht : 0 < t) (hc : c = (W.bits - 1) / t + 1)
    (hp : p < 2 ^ W.bits) :
    (if neg p W.bits sgn then c else countDigits (2 ^ t) p) = Nat.log 2 p / t + 1 := by
  split
  case isTrue hneg =>
    obtain ⟨-, hlow⟩ := (neg_eq_true_iff sgn (one_le_bits W) hp).mp hneg
    rw [hc, log_two_of_top_bit hlow hp]
  case isFalse => exact countDigits_two_pow ht p

section
variable {W : Width} (sgn : Bool) {p : Nat}

/-- CNT.BITS does not depend on the signedness (41_pow2_counts.md R90). -/
theorem bitsCount_eq_log (hp : p < 2 ^ W.bits) : bitsCount W sgn p = Nat.log 2 p + 1 := by
  have hW := one_le_bits W
  simpa [bitsCount] using ite_neg_eq_log (sgn := sgn) (t := 1) (c := W.bits) one_pos (by omega) hp

/-- CNT.OCT does not depend on the signedness (41_pow2_counts.md R91). -/
theorem octCount_eq_log (hp : p < 2 ^ W.bits) : octCount W sgn p = Nat.log 2 p / 3 + 1 := by
  have hW := one_le_bits W
  have hc := negOct_eq W
  exact ite_neg_eq_log (t := 3) (by decide) (by omega) hp

/-- CNT.HEX does not depend on the signedness (41_pow2_counts.md R92). -/
theorem hexCount_eq_log (hp : p < 2 ^ W.bits) : hexCount W sgn p = Nat.log 2 p / 4 + 1 := by
  have hW := one_le_bits W
  have hc := negHex_eq W
  have hdvd := four_dvd_bits W
  exact ite_neg_eq_log (t := 4) (by decide) (by omega) hp

/-- Three binary digits make a base-8 digit (41_pow2_counts.md R94). -/
theorem octCount_eq_bitsCount (hp : p < 2 ^ W.bits) : octCount W sgn p = (bitsCount W sgn p + 2) / 3 := by
  rw [octCount_eq_log sgn hp, bitsCount_eq_log sgn hp]
  omega

/-- Four binary digits make a base-16 digit (41_pow2_counts.md R94). -/
theorem hexCount_eq_bitsCount (hp : p < 2 ^ W.bits) : hexCount W sgn p = (bitsCount W sgn p + 3) / 4 := by
  rw [hexCount_eq_log sgn hp, bitsCount_eq_log sgn hp]
  omega

theorem bitsCount_eq_bitlen (hp : p < 2 ^ W.bits) : bitsCount W sgn p = max 1 (bitlen W.bits p) := by
  rw [bitsCount_eq_log sgn hp, max_one_bitlen hp]

/-- A pattern with its top bit set has NEGOCT digits, read as signed or as unsigned (41_pow2_counts.md R93). -/
theorem octCount_of_top_bit (hlow : 2 ^ (W.bits - 1) ≤ p) (hp : p < 2 ^ W.bits) : octCount W sgn p = negOct W := by
  rw [octCount_eq_bitsCount sgn hp, bitsCount_of_top_bit sgn hlow hp, negOct_eq]

/-- A pattern with its top bit set has NEGHEX digits, read as signed or as unsigned (41_pow2_counts.md R93). -/
theorem hexCount_of_top_bit (hlow : 2 ^ (W.bits - 1) ≤ p) (hp : p < 2 ^ W.bits) : hexCount W sgn p = negHex W := by
  have hdvd := four_dvd_bits W
  rw [hexCount_eq_bitsCount sgn hp, bitsCount_of_top_bit sgn hlow hp, negHex_eq]
  omega

end

theorem toNat_encode (i : Instr) : (encode i).toNat = i.ty.base + i.opCode := by
  obtain ⟨hty, hop⟩ := encode_fields i
  rw [← base_cmdType_add_cmdOp, hty, hop]

end Sys2Proof.Machine

/-! ### What an operation answers: the errors all six share, and a count with OK -/

namespace Sys2Proof.Claims

open Sys2Proof.Machine

theorem valueOf_lt (s : State) (W : Width) : valueOf s W < 2 ^ W.bits := lowBits_lt W _

/-- An operation's outcome: the checks on its operand type, and its own response behind them. -/
theorem exec_operation_eq_answer {op : OperandType → Instr} (hop : op ∈ operations) (s : State) (ty : OperandType) :
    exec (op ty) s =
      .next (s.answer (checkOperand s.params.ptrW ty s.now.port.req (checkedResponse s.now.port.req (op ty)))) := by
  rw [exec_eq_evaluate, State.evaluate, ty_operation hop]

theorem widthOf_of_reserved (ptrW : PtrWidth) {w : WidthSel} (h : w = .rsvd110 ∨ w = .rsvd111) :
    widthOf ptrW w = none := by
  rcases h with rfl | rfl <;> rfl

/-- The second and third check of `EVAL` come before every operation (60_exceptions.md R134). -/
theorem commonErrors_of_mem {op : OperandType → Instr} (hop : op ∈ operations) : CommonErrors op := by
  intro s ty
  refine ⟨fun hrsvd => ?_, fun W hw hnz hv => ?_⟩
  · rw [exec_operation_eq_answer hop, checkOperand_of_no_width _ _ (widthOf_of_reserved _ hrsvd)]
    rfl
  · replace hv : lowBits W s.now.port.req.value = 0 := hv
    rw [exec_operation_eq_answer hop, checkOperand_of_width _ _ hw, hnz, hv]
    rfl

/-- An accepted request gets the operation's own response. -/
theorem exec_of_accepted {op : OperandType → Instr} (hop : op ∈ operations) {s : State} {ty : OperandType} {W : Width}
    (h : Accepted s ty W) :
    exec (op ty) s = .next (s.answer (checkedResponse s.now.port.req (op ty) W (valueOf s W))) := by
  obtain ⟨hw, hnz⟩ := h
  have hpass : (ty.nz && lowBits W s.now.port.req.value == 0) = false := by
    rcases hnz with hnz | hv
    · rw [hnz, Bool.false_and]
    · replace hv : lowBits W s.now.port.req.value ≠ 0 := hv
      rw [beq_false_of_ne hv, Bool.and_false]
  rw [exec_operation_eq_answer hop, checkOperand_of_width _ _ hw, hpass]
  rfl

section
variable {s : State} {ty : OperandType} {W : Width}

theorem exec_bits_of_accepted (h : Accepted s ty W) :
    exec (.bits ty) s = .next (responds s 0b000#3 (bitsCount W ty.sgn (valueOf s W))) :=
  exec_of_accepted (op := .bits) (by simp [operations]) h

theorem exec_oct_of_accepted (h : Accepted s ty W) :
    exec (.oct ty) s = .next (responds s 0b000#3 (octCount W ty.sgn (valueOf s W))) :=
  exec_of_accepted (op := .oct) (by simp [operations]) h

theorem exec_hex_of_accepted (h : Accepted s ty W) :
    exec (.hex ty) s = .next (responds s 0b000#3 (hexCount W ty.sgn (valueOf s W))) :=
  exec_of_accepted (op := .hex) (by simp [operations]) h

end

/-- The model's test of the sign bit and its loop, in the terms of the statements. -/
theorem ite_neg_eq_ite_negative {W : Width} {sgn : Bool} {p b : Nat} (c : Nat) (hb : 1 < b) (hp : p < 2 ^ W.bits) :
    (if neg p W.bits sgn then c else countDigits b p) = if Negative W sgn p then c else Nat.log b p + 1 := by
  simp only [neg_eq_true_iff sgn (one_le_bits W) hp, countDigits_eq_log hb]

/-- A count that fits its width fits the eight count wires. -/
theorem countAfter_responds (s : State) (status : StatusBits) {W : Width} {n : Nat} (h : CountFits W n) :
    countAfter (.next (responds s status n)) = some n := by
  have hn : n < 2 ^ 8 := Nat.lt_of_le_of_lt (h.right.trans (bits_le W)) (by decide)
  exact congrArg some ((BitVec.toNat_ofNat n 8).trans (Nat.mod_eq_of_lt hn))

end Sys2Proof.Claims

namespace Sys2Proof.Proofs

open Sys2Proof.Machine Sys2Proof.Claims

/-- Settles O14: the model's count is the first formula term by term, and one more than log2 p whatever the sign. -/
theorem cntBitsRuns : Obligations.CntBitsRuns := by
  refine ⟨commonErrors_of_mem (by simp [operations]), fun ty => toNat_encode (.bits ty), fun s ty W h => ?_⟩
  have hp := valueOf_lt s W
  rw [exec_bits_of_accepted h]
  constructor
  · rw [bitsCount, ite_neg_eq_ite_negative _ (by decide) hp]
  · rw [bitsCount_eq_bitlen _ hp, bitlen]

/-- Settles O15: as for CNT.BITS, with a base-8 digit for every three bits. -/
theorem cntOctRuns : Obligations.CntOctRuns := by
  refine ⟨commonErrors_of_mem (by simp [operations]), fun ty => toNat_encode (.oct ty), fun s ty W h => ?_⟩
  have hp := valueOf_lt s W
  rw [exec_oct_of_accepted h]
  constructor
  · rw [octCount, ite_neg_eq_ite_negative _ (by decide) hp, negOct_eq]
  · rw [octCount_eq_bitsCount _ hp, bitsCount_eq_bitlen _ hp]

/-- Settles O16: as for CNT.BITS, with a base-16 digit for every four bits. -/
theorem cntHexRuns : Obligations.CntHexRuns := by
  refine ⟨commonErrors_of_mem (by simp [operations]), fun ty => toNat_encode (.hex ty), fun s ty W h => ?_⟩
  have hp := valueOf_lt s W
  rw [exec_hex_of_accepted h]
  constructor
  · rw [hexCount, ite_neg_eq_ite_negative _ (by decide) hp, negHex_eq]
  · rw [hexCount_eq_bitsCount _ hp, bitsCount_eq_bitlen _ hp]

/-- Settles O11: MIN_W and every other negative value have their top bit set, and so the count of a pattern of W bits,
under either signedness. -/
theorem fixedNegativeCounts : Obligations.FixedNegativeCounts := by
  refine ⟨rfl, fun W => ?_, fun s ty W h hneg => ?_⟩
  · have hmin := minMag_lt (one_le_bits W)
    exact ⟨negOct_eq W, negHex_eq W, bitsCount_of_top_bit false le_rfl hmin, octCount_of_top_bit false le_rfl hmin,
      hexCount_of_top_bit false le_rfl hmin⟩
  · obtain ⟨-, hlow⟩ := hneg
    have hp := valueOf_lt s W
    have hacc (sgn : Bool) : Accepted s { ty with sgn := sgn } W := h
    have hbits (sgn : Bool) : exec (.bits { ty with sgn := sgn }) s = .next (responds s 0b000#3 W.bits) := by
      rw [exec_bits_of_accepted (hacc sgn), bitsCount_of_top_bit _ hlow hp]
    have hoct (sgn : Bool) : exec (.oct { ty with sgn := sgn }) s = .next (responds s 0b000#3 (negOct W)) := by
      rw [exec_oct_of_accepted (hacc sgn), octCount_of_top_bit _ hlow hp]
    have hhex (sgn : Bool) : exec (.hex { ty with sgn := sgn }) s = .next (responds s 0b000#3 (negHex W)) := by
      rw [exec_hex_of_accepted (hacc sgn), hexCount_of_top_bit _ hlow hp]
    refine ⟨hbits ty.sgn, hoct ty.sgn, hhex ty.sgn, ?_⟩
    simp only [List.forall_mem_cons, List.not_mem_nil, false_imp_iff, implies_true, and_true]
    exact ⟨(hbits ty.sgn).trans (hbits false).symm, (hoct ty.sgn).trans (hoct false).symm,
      (hhex ty.sgn).trans (hhex false).symm⟩

/-- Settles O27: the counts fit W, the other two are read off the binary count, and `nz` is a case of O28. -/
theorem pow2Laws : Obligations.Pow2Laws := by
  refine ⟨fun s ty W h => ?_, fun s ty W hw hv op hop => ?_, rfl, rfl⟩
  · have hp := valueOf_lt s W
    have hb := countFits_bitsCount W ty.sgn hp
    have ho := countFits_octCount W ty.sgn hp
    have hh := countFits_hexCount W ty.sgn hp
    rw [exec_bits_of_accepted h, exec_oct_of_accepted h, exec_hex_of_accepted h]
    refine ⟨_, _, _, countAfter_responds s _ hb, countAfter_responds s _ ho, countAfter_responds s _ hh, hb, ho, hh,
      octCount_eq_bitsCount _ hp, hexCount_eq_bitsCount _ hp, fun h0 => ?_⟩
    rw [bitsCount_eq_log _ hp, octCount_eq_log _ hp, hexCount_eq_log _ hp, h0]
    simp
  · have hmem : op ∈ operations := List.mem_append_left [Instr.dec, .radix, .radixc] hop
    exact (nonZeroFlag op hmem s ty.sgn ty.wsel W hw).left hv

end Sys2Proof.Proofs

/-! ### The decimal count -/

namespace Sys2Proof.Machine

/-- The magnitude by comparison with 2^(W-1), without the sign bit (40_datapath.md R70, R71). -/
theorem mag_eq_ite {W : Width} (sgn : Bool) {p : Nat} (hp : p < 2 ^ W.bits) :
    mag p W.bits sgn = if sgn = true ∧ 2 ^ (W.bits - 1) ≤ p then 2 ^ W.bits - p else p := by
  simp only [mag, neg_eq_true_iff sgn (one_le_bits W) hp]

/-- The pattern of -v: 0 is its own negation, and any other pattern is taken from 2^W. -/
theorem negated_pattern_cases {W : Width} {p : Nat} (hp : p < 2 ^ W.bits) :
    (p = 0 ∧ (2 ^ W.bits - p) % 2 ^ W.bits = 0) ∨ (p ≠ 0 ∧ (2 ^ W.bits - p) % 2 ^ W.bits = 2 ^ W.bits - p) := by
  rcases Nat.eq_zero_or_pos p with rfl | h0
  · exact .inl ⟨rfl, Nat.mod_self _⟩
  · exact .inr ⟨h0.ne', Nat.mod_eq_of_lt (by omega)⟩

/-- Of the patterns p and 2^W - p one lies below 2^(W-1), unless both are MIN_W, and is the magnitude of either. -/
theorem mag_negated_pattern {W : Width} {p : Nat} (hp : p < 2 ^ W.bits) (hmin : p ≠ 2 ^ (W.bits - 1)) :
    mag ((2 ^ W.bits - p) % 2 ^ W.bits) W.bits true = mag p W.bits true := by
  have hhalf := two_pow_bits W
  obtain ⟨rfl, hq⟩ | ⟨h0, hq⟩ := negated_pattern_cases hp
  · rw [hq]
  · rw [hq, mag_eq_ite true (by omega), mag_eq_ite true hp]
    rcases Nat.lt_or_gt_of_ne hmin with h | h
    · rw [if_pos ⟨rfl, by omega⟩, if_neg (by omega)]
      omega
    · rw [if_neg (by omega), if_pos ⟨rfl, h.le⟩]

/-- CNT.DEC answers the two signs of a value alike, the check on `nz` included (42_decimal.md R101). -/
theorem commandResponse_dec_negated {ptrW : PtrWidth} {req req' : Request} {ty : OperandType} {W : Width}
    (hw : widthOf ptrW ty.wsel = some W) (hsgn : ty.sgn = true) (hmin : lowBits W req.value ≠ 2 ^ (W.bits - 1))
    (hneg : lowBits W req'.value = (2 ^ W.bits - lowBits W req.value) % 2 ^ W.bits) :
    commandResponse ptrW req' (.dec ty) = commandResponse ptrW req (.dec ty) := by
  have hp := lowBits_lt W req.value
  have hzero : (lowBits W req'.value == 0) = (lowBits W req.value == 0) := by
    rw [Bool.eq_iff_iff, beq_iff_eq, beq_iff_eq, hneg]
    obtain ⟨h0, hq⟩ | ⟨h0, hq⟩ := negated_pattern_cases hp <;> omega
  have hcount : decCount W true (lowBits W req'.value) = decCount W true (lowBits W req.value) := by
    rw [decCount, hneg, mag_negated_pattern hp hmin, decCount]
  simp only [commandResponse, checkOperand_of_width _ _ hw, hsgn, hzero, hcount]

end Sys2Proof.Machine

namespace Sys2Proof.Claims

open Sys2Proof.Machine

theorem exec_dec_of_accepted {s : State} {ty : OperandType} {W : Width} (h : Accepted s ty W) :
    exec (.dec ty) s = .next (responds s 0b000#3 (decCount W ty.sgn (valueOf s W))) :=
  exec_of_accepted (op := .dec) (by simp [operations]) h

/-- The model's decimal count, in the terms of the statements (42_decimal.md R100). -/
theorem decCount_eq_decimalDigits {W : Width} (sgn : Bool) {p : Nat} (hp : p < 2 ^ W.bits) :
    decCount W sgn p = decimalDigits W sgn p := by
  rw [decCount, countDigits_eq_log (by decide), mag_eq_ite sgn hp, decimalDigits]

end Sys2Proof.Claims

namespace Sys2Proof.Proofs

open Sys2Proof.Machine Sys2Proof.Claims

/-- Settles O17: the digits of the magnitude are counted by the loop, which is the integer logarithm. -/
theorem cntDecRuns : Obligations.CntDecRuns := by
  refine ⟨commonErrors_of_mem (by simp [operations]), fun ty => toNat_encode (.dec ty), fun s ty W h => ?_⟩
  rw [exec_dec_of_accepted h, decCount_eq_decimalDigits _ (valueOf_lt s W)]

/-- Settles O25: the pipeline takes the response alone from the operands, and the response is the same for -v. -/
theorem decimalSignSymmetry : Obligations.DecimalSignSymmetry := by
  intro s ty W value hw hsgn hmin hneg
  have hresp : commandResponse s.params.ptrW (withOperands s value s.now.port.req.radix).now.port.req (.dec ty) =
      commandResponse s.params.ptrW s.now.port.req (.dec ty) := commandResponse_dec_negated hw hsgn hmin hneg
  rw [exec_eq_answer, exec_eq_answer]
  exact ⟨rfl, congrArg (fun r => some (s.pipe.shift (.ofResponse r))) hresp⟩

/-- Settles O26: the fifteen counts of the table are computed. -/
theorem decimalLimits : Obligations.DecimalLimits := rfl

end Sys2Proof.Proofs

/-! ### The arbitrary-radix counts -/

namespace Sys2Proof.Machine

/-- A fixed count that is the MIN digit table's entry gives the general path's count (40_datapath.md R81). -/
theorem ite_neg_eq_genCount {p W r c : Nat} {sgn : Bool} (hc : minDig W r = c) :
    (if neg p W sgn then c else countDigits r p) = genCount p W sgn r := by
  rw [genCount, hc]
  split
  case isTrue => rfl
  case isFalse hneg => rw [mag_of_not_neg (Bool.eq_false_iff.mpr hneg)]

/-- The dedicated paths of radices 2, 8 and 16 give the general path's count; radix 10 alone has a count of its own. -/
theorem radixCount_of_ne_ten (W : Width) (sgn : Bool) (p : Nat) {r : Nat} (hr : r ≠ 10) :
    radixCount W sgn p r = genCount p W.bits sgn r := by
  obtain ⟨-, hrows, -⟩ := Proofs.fixedNegativeCounts
  obtain ⟨-, -, hbits, hoct, hhex⟩ := hrows W
  by_cases h2 : r = 2
  · subst h2
    exact ite_neg_eq_genCount hbits
  by_cases h8 : r = 8
  · subst h8
    exact ite_neg_eq_genCount hoct
  by_cases h16 : r = 16
  · subst h16
    exact ite_neg_eq_genCount hhex
  · rw [radixCount, dispatch_gen h2 h8 hr h16]

theorem radixResponse_of_lt_two (below : Status) (W : Width) (sgn : Bool) (p : Nat) {r : Nat} (h : r < 2) :
    radixResponse below W sgn p r = raiseStatus below := if_pos h

theorem radixResponse_of_two_le (below : Status) (W : Width) (sgn : Bool) (p : Nat) {r : Nat} (h : 2 ≤ r) :
    radixResponse below W sgn p r = respondOk (radixCount W sgn p r) := if_neg (Nat.not_lt.mpr h)

end Sys2Proof.Machine

namespace Sys2Proof.Claims

open Sys2Proof.Machine

/-- The magnitude whose base-r digits are counted: that of a negative value is its own in radix 10 and the MIN magnitude
of its width in every other radix (43_radix.md R110). -/
def radixMagnitude (W : Width) (sgn : Bool) (p r : Nat) : Nat :=
  if Negative W sgn p then (if r = 10 then 2 ^ W.bits - p else 2 ^ (W.bits - 1)) else p

section
variable {W : Width} {sgn : Bool} {p : Nat}

theorem radixMagnitude_of_not_negative (r : Nat) (h : ¬Negative W sgn p) : radixMagnitude W sgn p r = p := if_neg h

theorem radixMagnitude_of_negative {r : Nat} (h : Negative W sgn p) (hr : r ≠ 10) :
    radixMagnitude W sgn p r = 2 ^ (W.bits - 1) := by
  rw [radixMagnitude, if_pos h, if_neg hr]

theorem radixMagnitude_ten_of_negative (h : Negative W sgn p) : radixMagnitude W sgn p 10 = 2 ^ W.bits - p := by
  rw [radixMagnitude, if_pos h, if_pos rfl]

/-- A change of radix does not raise the magnitude, but for a negative value counted in radix 10 first. -/
theorem radixMagnitude_le {r1 : Nat} (r2 : Nat) (h : ¬(Negative W sgn p ∧ r1 = 10)) :
    radixMagnitude W sgn p r2 ≤ radixMagnitude W sgn p r1 := by
  have hhalf := two_pow_bits W
  by_cases hneg : Negative W sgn p
  · rw [radixMagnitude_of_negative hneg fun h10 => h ⟨hneg, h10⟩, radixMagnitude, if_pos hneg]
    obtain ⟨-, hlow⟩ := hneg
    split <;> omega
  · rw [radixMagnitude_of_not_negative r2 hneg, radixMagnitude_of_not_negative r1 hneg]

/-- Every radix count is a logarithm (43_radix.md R110). -/
theorem radixCount_eq_log {r : Nat} (hr : 2 ≤ r) (hp : p < 2 ^ W.bits) :
    radixCount W sgn p r = Nat.log r (radixMagnitude W sgn p r) + 1 := by
  by_cases h10 : r = 10
  · subst h10
    exact decCount_eq_decimalDigits sgn hp
  · rw [radixCount_of_ne_ten W sgn p h10, genCount, minDig_eq_log hr, mag_eq_ite sgn hp, countDigits_eq_log hr,
      radixMagnitude, if_neg h10]
    simp only [neg_eq_true_iff sgn (one_le_bits W) hp]
    split <;> rfl

end

/-- The two branches in which R110 writes the count. -/
theorem log_radixMagnitude (W : Width) (sgn : Bool) (p r : Nat) :
    Nat.log r (radixMagnitude W sgn p r) + 1 =
      if r = 10 then decimalDigits W sgn p
      else Nat.log r (if Negative W sgn p then 2 ^ (W.bits - 1) else p) + 1 := by
  by_cases h10 : r = 10
  · subst h10
    rfl
  · rw [if_neg h10, radixMagnitude, if_neg h10]

section
variable {s : State} {ty : OperandType} {W : Width}

theorem exec_radix_of_accepted (h : Accepted s ty W) :
    exec (.radix ty) s = .next (s.answer (radixResponse .radixFail W ty.sgn (valueOf s W) (radixOf s W))) :=
  exec_of_accepted (op := .radix) (by simp [operations]) h

theorem exec_radixc_of_accepted (h : Accepted s ty W) :
    exec (.radixc ty) s = .next (s.answer (radixResponse .absent W ty.sgn (valueOf s W) (radixOf s W))) :=
  exec_of_accepted (op := .radixc) (by simp [operations]) h

theorem exec_radix_of_lt_two (h : Accepted s ty W) (hr : radixOf s W < 2) :
    exec (.radix ty) s = .next (responds s 0b010#3 0) := by
  rw [exec_radix_of_accepted h, radixResponse_of_lt_two _ _ _ _ hr]
  rfl

theorem exec_radixc_of_lt_two (h : Accepted s ty W) (hr : radixOf s W < 2) :
    exec (.radixc ty) s = .next (responds s 0b001#3 0) := by
  rw [exec_radixc_of_accepted h, radixResponse_of_lt_two _ _ _ _ hr]
  rfl

theorem exec_radix_of_two_le (h : Accepted s ty W) (hr : 2 ≤ radixOf s W) :
    exec (.radix ty) s = .next (responds s 0b000#3 (radixCount W ty.sgn (valueOf s W) (radixOf s W))) := by
  rw [exec_radix_of_accepted h, radixResponse_of_two_le _ _ _ _ hr]
  rfl

/-- The two radix operations differ in their status below radix 2 only (43_radix.md R111). -/
theorem exec_radixc_eq_exec_radix (h : Accepted s ty W) (hr : 2 ≤ radixOf s W) :
    exec (.radixc ty) s = exec (.radix ty) s := by
  rw [exec_radixc_of_accepted h, exec_radix_of_accepted h, radixResponse_of_two_le _ _ _ _ hr,
    radixResponse_of_two_le _ _ _ _ hr]

/-- What CNT.RADIX answers from radix 2 on, as a logarithm. -/
theorem exec_radix_eq_log (h : Accepted s ty W) (hr : 2 ≤ radixOf s W) :
    exec (.radix ty) s = .next (responds s 0b000#3
      (Nat.log (radixOf s W) (radixMagnitude W ty.sgn (valueOf s W) (radixOf s W)) + 1)) := by
  rw [exec_radix_of_two_le h hr, radixCount_eq_log hr (valueOf_lt s W)]

/-- A negative value is counted from the MIN magnitude in every radix but 10 (43_radix.md R115). -/
theorem exec_radix_of_negative (h : Accepted s ty W) (hneg : Negative W ty.sgn (valueOf s W)) (hr : 2 ≤ radixOf s W)
    (h10 : radixOf s W ≠ 10) :
    exec (.radix ty) s = .next (responds s 0b000#3 (Nat.log (radixOf s W) (2 ^ (W.bits - 1)) + 1)) := by
  rw [exec_radix_eq_log h hr, radixMagnitude_of_negative hneg h10]

/-- In a dispatched radix both radix operations answer with that radix's own count (40_datapath.md R81). -/
theorem exec_radix_of_dispatched {op : OperandType → Instr} (hop : op ∈ [Instr.radix, Instr.radixc])
    (h : Accepted s ty W) {r : Nat} (hr : 2 ≤ r) (hradix : radixOf s W = r) :
    exec (op ty) s = .next (responds s 0b000#3 (radixCount W ty.sgn (valueOf s W) r)) := by
  subst hradix
  have hradix := exec_radix_of_two_le h hr
  simp only [List.mem_cons, List.not_mem_nil, or_false] at hop
  rcases hop with rfl | rfl
  · exact hradix
  · exact (exec_radixc_eq_exec_radix h hr).trans hradix

/-- The count of CNT.RADIX with the value on the port and another radix. -/
theorem countAfter_radix_withOperands (h : Accepted s ty W) {radix : Bus} (hr : 2 ≤ radix.toNat % 2 ^ W.bits) :
    countAfter (exec (.radix ty) (withOperands s s.now.port.req.value radix)) =
      some (radixCount W ty.sgn (valueOf s W) (radix.toNat % 2 ^ W.bits)) := by
  have hacc : Accepted (withOperands s s.now.port.req.value radix) ty W := h
  rw [exec_radix_of_two_le hacc hr]
  exact countAfter_responds _ _ (countFits_radixCount W ty.sgn _ (valueOf_lt s W))

end

/-- Of the negative I8 values, -1 to -99 have fewer decimal than base-11 digits (90_conflicts.md C1). -/
theorem radixCount_ten_lt_eleven_iff {p : Nat} (hlow : 128 ≤ p) (hp : p < 256) :
    radixCount .w8 true p 10 < radixCount .w8 true p 11 ↔ 256 - p ≤ 99 := by
  have hneg : Negative .w8 true p := ⟨rfl, hlow⟩
  have heleven : radixCount .w8 true p 11 = 2 + 1 := by
    rw [radixCount_eq_log (by decide) hp, radixMagnitude_of_negative hneg (by decide)]
    rfl
  have hten : radixCount .w8 true p 10 = Nat.log 10 (256 - p) + 1 := by
    rw [radixCount_eq_log (by decide) hp, radixMagnitude_ten_of_negative hneg]
    rfl
  rw [heleven, hten, Nat.add_lt_add_iff_right, Nat.log_lt_iff_lt_pow (by decide) (by omega)]
  omega

/-- Values up to the type's largest non-negative value are not negative (43_radix.md R114). -/
theorem not_negative_of_le_max {W : Width} {sgn : Bool} {p m : Nat} (hp : p ≤ m)
    (hm : m ≤ if sgn = true then 2 ^ (W.bits - 1) - 1 else 2 ^ W.bits - 1) : ¬Negative W sgn p := by
  rintro ⟨hsgn, hlow⟩
  rw [if_pos hsgn] at hm
  have hpos := Nat.two_pow_pos (W.bits - 1)
  omega

end Sys2Proof.Claims

namespace Sys2Proof.Proofs

open Sys2Proof.Machine Sys2Proof.Claims

/-- Settles O18: below radix 2 the last check fails, and from radix 2 on the count is the logarithm of the magnitude the
radix calls for. -/
theorem cntRadixRuns : Obligations.CntRadixRuns := by
  refine ⟨commonErrors_of_mem (by simp [operations]), fun ty => toNat_encode (.radix ty),
    fun s ty W h => ⟨exec_radix_of_lt_two h, fun hr => ?_⟩⟩
  rw [exec_radix_eq_log h hr, log_radixMagnitude]

/-- Settles O19: from radix 2 on CNT.RADIXC is CNT.RADIX. -/
theorem cntRadixcRuns : Obligations.CntRadixcRuns := by
  refine ⟨commonErrors_of_mem (by simp [operations]), fun ty => toNat_encode (.radixc ty),
    fun s ty W h => ⟨exec_radixc_of_lt_two h, fun hr => ?_⟩⟩
  have heq := exec_radixc_eq_exec_radix h hr
  refine ⟨heq, ?_⟩
  rw [heq, exec_radix_eq_log h hr, log_radixMagnitude]

/-- Settles O21: the multiplexer hands each of the four radices to the count of its own operation. -/
theorem dispatchEqualities : Obligations.DispatchEqualities := by
  intro s ty W h op hop
  rw [exec_bits_of_accepted h, exec_oct_of_accepted h, exec_dec_of_accepted h, exec_hex_of_accepted h]
  exact ⟨exec_radix_of_dispatched hop h (by decide), exec_radix_of_dispatched hop h (by decide),
    exec_radix_of_dispatched hop h (by decide), exec_radix_of_dispatched hop h (by decide)⟩

/-- Settles O22: the logarithm falls with its base, and outside the exception the magnitude does not rise. -/
theorem countFallsWithRadix : Obligations.CountFallsWithRadix := by
  refine ⟨fun s ty W radix1 radix2 h hr1 hlt hexc => ?_, fun p => radixCount_ten_lt_eleven_iff, rfl, rfl⟩
  have hp := valueOf_lt s W
  have hr2 := hr1.trans hlt.le
  refine ⟨_, _, countAfter_radix_withOperands h hr1, countAfter_radix_withOperands h hr2, ?_⟩
  rw [radixCount_eq_log hr1 hp, radixCount_eq_log hr2 hp]
  exact Nat.add_le_add_right (Nat.log_mono hr1 hlt.le (radixMagnitude_le _ hexc)) 1

/-- Settles O23: both values are non-zero and not negative, and so their digits are those of the pattern. -/
theorem crossingPowers : Obligations.CrossingPowers := by
  intro s ty W k hw hr hk hmax
  have hpow : radixOf s W ^ (k - 1) < radixOf s W ^ k := Nat.pow_lt_pow_right hr (by omega)
  have hpos : 0 < radixOf s W ^ (k - 1) := Nat.pow_pos (by omega)
  have hcount (h0 : valueOf s W ≠ 0) (hle : valueOf s W ≤ radixOf s W ^ k) :
      exec (.radix ty) s = .next (responds s 0b000#3 (Nat.log (radixOf s W) (valueOf s W) + 1)) := by
    rw [exec_radix_eq_log ⟨hw, .inr h0⟩ hr, radixMagnitude_of_not_negative _ (not_negative_of_le_max hle hmax)]
  constructor
  · intro hv
    have hlog : Nat.log (radixOf s W) (valueOf s W) = k - 1 :=
      Nat.log_eq_of_pow_le_of_lt_pow (by omega) (by rw [Nat.sub_add_cancel hk]; omega)
    rw [hcount (by omega) (by omega), hlog, Nat.sub_add_cancel hk]
  · intro hv
    rw [hcount (by omega) hv.le, hv, Nat.log_pow hr]

/-- Settles O24: the magnitude counted is that of MIN_W, in which the value does not occur. -/
theorem negativesUseMinMagnitude : Obligations.NegativesUseMinMagnitude := by
  refine ⟨fun s ty W h hneg hr h10 => ⟨exec_radix_of_negative h hneg hr h10, fun value hlow => ?_⟩, rfl, rfl⟩
  have ⟨hw, _⟩ := h
  have ⟨hsgn, _⟩ := hneg
  have hnonzero : value.toNat % 2 ^ W.bits ≠ 0 := (Nat.lt_of_lt_of_le (Nat.two_pow_pos _) hlow).ne'
  have hother : Accepted (withOperands s value s.now.port.req.radix) ty W := ⟨hw, .inr hnonzero⟩
  rw [exec_radix_of_negative h hneg hr h10, exec_radix_of_negative hother ⟨hsgn, hlow⟩ hr h10]
  rfl

end Sys2Proof.Proofs

/-! ### What the host records of a response it takes -/

namespace Sys2Proof.Machine

section
variable (h : Ledger) {rsp : Stage}

theorem receive_of_ok (e : rsp.status = Status.ok.code) : h.receive rsp = h.addCall (.count rsp.count) := by
  rw [Ledger.receive, e]; rfl

theorem receive_of_absent (e : rsp.status = Status.absent.code) : h.receive rsp = h.addCall .absent := by
  rw [Ledger.receive, e]; rfl

theorem receive_of_radixFail (e : rsp.status = Status.radixFail.code) : h.receive rsp = h.addFault .radixFail := by
  rw [Ledger.receive, e]; rfl

theorem receive_of_illOp (e : rsp.status = Status.illOp.code) : h.receive rsp = h.addFault .illOp := by
  rw [Ledger.receive, e]; rfl

theorem receive_of_illWidth (e : rsp.status = Status.illWidth.code) : h.receive rsp = h.addFault .illWidth := by
  rw [Ledger.receive, e]; rfl

theorem receive_of_nzViolation (e : rsp.status = Status.nzViolation.code) :
    h.receive rsp = h.addFault .nzViolation := by
  rw [Ledger.receive, e]; rfl

end

/-- From the first reset edge on, a host that does not leave the response shown receives it (60_exceptions.md R136). -/
theorem observe_of_taken {h : Ledger} {act : HostAct} {rsp : Stage} (hb : h.booted = true) (hact : act ≠ .leave)
    (hv : rsp.valid = true) : h.observe act rsp = h.receive rsp := by
  cases act with
  | leave => exact absurd rfl hact
  | take | await => simp [Ledger.observe, hb, hv]

/-- `rsp_valid` = 0 is no response, and the host records nothing (10_state.md R28). -/
theorem observe_of_invalid (h : Ledger) (act : HostAct) {rsp : Stage} (hv : rsp.valid = false) :
    h.observe act rsp = h := by
  simp [Ledger.observe, hv]

/-- What a step adds to the host's record is what the host has observed of the response port. -/
theorem step_record {s t : State} (h : step s = .next t) :
    t.host.calls = (s.host.observe s.now.act s.rsp).calls ∧ t.host.faults = (s.host.observe s.now.act s.rsp).faults := by
  obtain ⟨-, u, -, rfl⟩ := step_next h
  simp

/-- A host that does not wait is not stuck. -/
theorem not_stuck_of_act {s : State} (h : s.now.act ≠ .await) : s.stuck = false := by simp [State.stuck, h]

/-- A host that is shown a response is not stuck. -/
theorem not_stuck_of_rsp {s : State} (h : s.rsp.valid = true) : s.stuck = false := by
  have hall : (s.pipe.stages.all fun st => !st.valid) = false :=
    List.all_eq_false.mpr ⟨s.rsp, rsp_mem_stages s, by simp [h]⟩
  simp [State.stuck, hall]

/-! ### The response of a reserved word and of a decoded one -/

/-- A step that samples a reserved word answers the status of the decoder's rejection (60_exceptions.md R133). -/
theorem step_of_rejected {s : State} {e : Reject} (hr : s.now.port.rst = false) (hv : s.now.port.reqValid = true)
    (he : decode s.now.port.req.cmd = .error e) :
    step s = .next (closeEdge s (settle s (s.answer (raiseStatus (rejectStatus e))))) := by
  simp [step, not_stuck_of_request hr hv, iluEdge, event_request hr hv, runCommand, he]

theorem eval_of_rejected (ptrW : PtrWidth) {req : Request} {e : Reject} (he : decode req.cmd = .error e) :
    eval ptrW req = raiseStatus (rejectStatus e) := by
  rw [← requestResponse_eq_eval, requestResponse, he]

/-- `EVAL` of a legal word is the operand checks, with the command's own response behind them. -/
theorem eval_of_decoded (ptrW : PtrWidth) {req : Request} {i : Instr} (hi : decode req.cmd = .ok i) :
    eval ptrW req = checkOperand ptrW i.ty req (checkedResponse req i) := by
  rw [← requestResponse_eq_eval, requestResponse, hi]
  cases i <;> rfl

theorem code_le (st : Status) : st.code.toNat ≤ 5 := by cases st <;> decide

theorem code_eq_ok_iff (st : Status) : st.code = 0b000#3 ↔ st = .ok := by cases st <;> decide

/-- Whatever is not OK has count 0 (60_exceptions.md R131): the form of the stage the response enters. -/
theorem count_eval_of_not_ok (ptrW : PtrWidth) {req : Request} (h : (eval ptrW req).status ≠ .ok) :
    (eval ptrW req).count = 0x00#8 :=
  (legal_of_not_ok (legal_eval ptrW req) rfl (mt (code_eq_ok_iff _).mp h)).right

/-! ### A run along an invariant of the step -/

section
variable {M : Host.Core}

theorem run_succ_of_step {s t : M.State} (k : Nat) (h : M.step s = .next t) : M.run (k + 1) s = M.run k t := by
  rw [Host.Core.run, h]

/-- Where every state of a predicate steps to one of it, every run from one reaches one. -/
theorem run_of_invariant {P : M.State → Prop} (hstep : ∀ s, P s → ∃ t, M.step s = .next t ∧ P t) (k : Nat)
    {s : M.State} (hs : P s) : ∃ t, M.run k s = .next t ∧ P t := by
  induction k generalizing s with
  | zero => exact ⟨s, rfl, hs⟩
  | succ k ih =>
    obtain ⟨t, hst, ht⟩ := hstep s hs
    rw [run_succ_of_step k hst]
    exact ih ht

end

end Sys2Proof.Machine

/-! ### A well-behaved host -/

namespace Sys2Proof.Claims

open Sys2Proof.Machine

/-- The two statuses that are results of a call have the codes 0 and 1 (60_exceptions.md R131, R136). -/
theorem code_le_one_iff (st : Status) : st.code.toNat ≤ 1 ↔ st = .ok ∨ st = .absent := by cases st <;> decide

/-- Taking OK or ABSENT records no fault. -/
theorem faults_receive_of_le_one (h : Ledger) {rsp : Stage} (hle : rsp.status.toNat ≤ 1) :
    (h.receive rsp).faults = h.faults := by
  have hcode : rsp.status = Status.ok.code ∨ rsp.status = Status.absent.code :=
    (Nat.le_one_iff_eq_zero_or_eq_one.mp hle).imp BitVec.eq_of_toNat_eq BitVec.eq_of_toNat_eq
  obtain e | e := hcode
  · rw [receive_of_ok h e, addCall_faults]
  · rw [receive_of_absent h e, addCall_faults]

/-- A host that takes the port records no fault where OK and ABSENT are all it can be shown. -/
theorem faults_observe_take {h : Ledger} {rsp : Stage} (hb : h.booted = true) (hle : rsp.status.toNat ≤ 1) :
    (h.observe .take rsp).faults = h.faults := by
  cases hv : rsp.valid with
  | true => rw [observe_of_taken hb (by decide) hv, faults_receive_of_le_one h hle]
  | false => rw [observe_of_invalid h _ hv]

/-- With only OK and ABSENT in flight, an edge that samples no request answered otherwise keeps it so. -/
theorem status_edge_le_one {ptrW : PtrWidth} {p : Pipe} {port : Port} (hp : ∀ st ∈ p.stages, st.status.toNat ≤ 1)
    (hreq : port.reqValid = true → (eval ptrW port.req).status = .ok ∨ (eval ptrW port.req).status = .absent) :
    ∀ st ∈ (p.edge ptrW port).stages, st.status.toNat ≤ 1 := by
  intro st hst
  cases hr : port.rst with
  | true =>
    rw [edge_of_reset ptrW p hr, stages_cleared] at hst
    rw [List.eq_of_mem_replicate hst]
    decide
  | false =>
    rw [edge_of_no_reset ptrW p hr, stages_shift] at hst
    obtain rfl | hst := List.mem_cons.mp hst
    · unfold stageIn
      split
      · next hv => exact (code_le_one_iff _).mpr (hreq hv)
      · decide
    · exact hp st (List.mem_of_mem_dropLast hst)

theorem safe_iff (s : State) : s.safe = true ↔
    s.host.booted = true ∧ s.stagesLegal = true ∧ s.matched = true ∧ s.host.faults = [] := by
  simp [State.safe, State.noFault, and_assoc]

/-- A step that records no fault keeps a state safe: the two invariants of the machine are kept by every step. -/
theorem step_keeps_safe {s t : State} (hs : s.safe = true) (h : step s = .next t) (hf : t.host.faults = s.host.faults) :
    t.safe = true := by
  obtain ⟨hb, hlegal, hmatched, hnone⟩ := (safe_iff s).mp hs
  have htb : t.host.booted = true := by rw [step_booted h, hb, Bool.true_or]
  exact (safe_iff t).mpr ⟨htb, step_keeps_stagesLegal hlegal h, step_keeps_matched hmatched h, hf.trans hnone⟩

/-- A cycle that a well-behaved host may drive: it takes the port, and a request it presents is answered OK or ABSENT. -/
def CourteousCycle (ptrW : PtrWidth) (c : Cycle) : Prop :=
  c.act = .take ∧ (c.port.reqValid = true →
    (eval ptrW c.port.req).status = .ok ∨ (eval ptrW c.port.req).status = .absent)

/-- The cycle past the end of the script presents nothing (the model's, log 4). -/
theorem courteousCycle_idle (ptrW : PtrWidth) : CourteousCycle ptrW .idle := ⟨rfl, fun h => nomatch h⟩

/-- A cycle that does not wait is followed by the next one of the script, or by the idle one past its end. -/
theorem step_cycle_cases {s t : State} (hact : s.now.act ≠ .await) (h : step s = .next t) :
    ∀ c ∈ t.now :: t.script, c = .idle ∨ c ∈ s.script := by
  obtain ⟨-, u, -, rfl⟩ := step_next h
  have hrep : s.repeats = false := by simp [State.repeats, hact]
  simp only [closeEdge_now, closeEdge_script, State.nextCycle, State.nextScript, hrep]
  cases s.script with
  | nil => simp
  | cons next rest => exact fun c hc => .inr hc

theorem wellBehaved_iff (s : State) : WellBehaved s ↔ s.safe = true ∧ (∀ st ∈ s.pipe.stages, st.status.toNat ≤ 1) ∧
    ∀ c ∈ s.now :: s.script, CourteousCycle s.params.ptrW c := Iff.rfl

/-- Good behaviour is an invariant of the step, and it rules out the one stop. -/
theorem step_of_wellBehaved {s : State} (hs : WellBehaved s) : ∃ t, step s = .next t ∧ WellBehaved t := by
  obtain ⟨hsafe, hstatus, hcycles⟩ := (wellBehaved_iff s).mp hs
  obtain ⟨htake, hreq⟩ := hcycles s.now List.mem_cons_self
  obtain ⟨hb, -⟩ := (safe_iff s).mp hsafe
  have hact : s.now.act ≠ .await := by rw [htake]; decide
  obtain ⟨u, hu, hstep⟩ := step_of_not_stuck (not_stuck_of_act hact)
  have hparams : (closeEdge s u).params = s.params := (iluEdge_keeps_params_lat hu).left
  have hfaults : (closeEdge s u).host.faults = s.host.faults := by
    rw [(step_record hstep).right, htake, faults_observe_take hb (hstatus _ (rsp_mem_stages s))]
  refine ⟨_, hstep, (wellBehaved_iff _).mpr ⟨step_keeps_safe hsafe hstep hfaults, ?_, fun c hc => ?_⟩⟩
  · rw [step_pipe (.inl hb) hstep]
    exact status_edge_le_one hstatus hreq
  · rw [hparams]
    obtain rfl | hc := step_cycle_cases hact hstep c hc
    · exact courteousCycle_idle _
    · exact hcycles c (List.mem_cons_of_mem _ hc)

end Sys2Proof.Claims

namespace Sys2Proof.Proofs

open Sys2Proof.Machine Sys2Proof.Claims

/-- Settles O53: good behaviour is kept by every step, so every run ends in a well-behaved state, which is a safe one. -/
theorem wellBehavedHostRunsSafely : Obligations.WellBehavedHostRunsSafely := by
  intro s hs
  refine ⟨step_of_wellBehaved hs, fun k => ?_⟩
  obtain ⟨t, hrun, hsafe, -⟩ := run_of_invariant (M := Sys2Proof.core) (fun _ => step_of_wellBehaved) k hs
  exact ⟨t, hrun, hsafe⟩

/-- Settles O13: the decoder's two rejections come first, the zero value next, and what is answered has the form of a
stage. -/
theorem evalChecksInOrder : Obligations.EvalChecksInOrder := by
  intro pw q
  obtain ⟨hop, hwidth, -⟩ := reservedWordsRejectedByName
  refine ⟨fun h => eval_of_rejected pw ((hop q.cmd).mpr h),
    fun h h' => eval_of_rejected pw ((hwidth q.cmd).mpr ⟨h, h'⟩), fun i hi W hw hnz hv => ?_, code_le _,
    count_eval_of_not_ok pw⟩
  replace hv : lowBits W q.value = 0 := hv
  rw [eval_of_decoded pw hi, checkOperand_of_width _ _ hw, hnz, hv]
  rfl

/-- Settles O34: the decoder rejects the word by its name, and the step answers the status of that name. -/
theorem reservedWordsAnswered : Obligations.ReservedWordsAnswered := by
  intro s hr hv
  obtain ⟨hop, hwidth, -⟩ := reservedWordsRejectedByName
  exact ⟨fun h => step_of_rejected hr hv ((hop _).mpr h), fun h h' => step_of_rejected hr hv ((hwidth _).mpr ⟨h, h'⟩)⟩

/-- Settles O47: the host receives the response on the port, and the step carries its record on. -/
theorem takenResponses : Obligations.TakenResponses := by
  intro s hb hact hv
  obtain ⟨u, -, hstep⟩ := step_of_not_stuck (not_stuck_of_rsp hv)
  obtain ⟨hcalls, hfaults⟩ := step_record hstep
  rw [observe_of_taken hb hact hv] at hcalls hfaults
  refine ⟨_, hstep, ?_⟩
  rw [hcalls, hfaults]
  refine ⟨fun e => ?_, fun e => ?_, fun e => ?_, fun e => ?_, fun e => ?_, fun e => ?_⟩
  · rw [receive_of_ok _ e]; exact ⟨rfl, rfl⟩
  · rw [receive_of_absent _ e]; exact ⟨rfl, rfl⟩
  · rw [receive_of_radixFail _ e]; exact ⟨rfl, rfl⟩
  · rw [receive_of_illOp _ e]; exact ⟨rfl, rfl⟩
  · rw [receive_of_illWidth _ e]; exact ⟨rfl, rfl⟩
  · rw [receive_of_nzViolation _ e]; exact ⟨rfl, rfl⟩

/-- Settles O50: the faults after a step are those after observing the port, which leaves them or adds one. -/
theorem hostFaultsAreNeverCleared : Obligations.HostFaultsAreNeverCleared := by
  intro s t h
  rw [(step_record h).right]
  obtain e | ⟨c, e⟩ | ⟨f, e⟩ := observe_cases s.host s.now.act s.rsp <;> rw [e]
  · exact ⟨[], rfl, Nat.zero_le 1⟩
  · exact ⟨[], rfl, Nat.zero_le 1⟩
  · exact ⟨[f], rfl, Nat.le_refl 1⟩

end Sys2Proof.Proofs

/-! ### A reset edge -/

namespace Sys2Proof.Machine

/-- A reset ends every wait (log 18). -/
theorem not_stuck_of_reset {s : State} (hr : s.now.port.rst = true) : s.stuck = false := by
  simp [State.stuck, event_reset hr]

section
variable {s t : State} (hr : s.now.port.rst = true) (h : step s = .next t)
include hr h

/-- A reset edge clears every stage, whatever the stages held (10_state.md R36). -/
theorem step_stages_of_reset : t.pipe.stages = List.replicate s.pipe.lat .bubble := by
  rw [step_pipe (.inr hr) h, edge_of_reset _ _ hr, stages_cleared]

theorem step_rsp_of_reset : t.rsp = .bubble :=
  List.eq_of_mem_replicate (step_stages_of_reset hr h ▸ rsp_mem_stages t)

theorem step_booted_of_reset : t.host.booted = true := by rw [step_booted h, hr, Bool.or_true]

/-- A reset edge empties the host's queue (70_reset_and_hazards.md R157). -/
theorem step_queue_of_reset : t.host.outstanding = [] ∧ t.host.shown = none := by
  obtain ⟨-, u, -, rfl⟩ := step_next h
  rw [closeEdge_host, track_reset _ _ hr]
  exact ⟨rfl, rfl⟩

theorem step_stagesLegal_of_reset : t.stagesLegal = true := by
  rw [stagesLegal_iff, step_pipe (.inr hr) h]
  exact fun _ => legal_edge _ (.inl hr)

end

/-! ### Before the first reset edge -/

theorem getElem?_stages_powerOnPipe (d : Nat) {n i : Nat} (hi : i < n + 1) :
    (powerOnPipe d n).stages[i]? = some (powerOnStage d (i + 1)) := by
  cases i with
  | zero => rfl
  | succ i => simp [Pipe.stages, powerOnPipe, Nat.lt_of_succ_lt_succ hi]

/-- Before the first reset edge no wait is hopeless (70_reset_and_hazards.md R152). -/
theorem not_stuck_of_unreset {s : State} (hb : s.host.booted = false) : s.stuck = false := by simp [State.stuck, hb]

/-- Before the first reset edge, an edge without reset draws the whole pipeline anew, whatever was sampled. -/
theorem iluEdge_unreset {s u : State} (hb : s.host.booted = false) (hr : s.now.port.rst = false)
    (h : iluEdge s = .next u) : u.pipe = powerOnPipe s.draws s.pipe.later.length ∧ u.draws = s.draws + 1 := by
  have hlen (st : Stage) : (s.pipe.shift st).later.length = s.pipe.later.length := Nat.succ.inj (lat_shift s.pipe st)
  obtain ⟨hr', -⟩ | ⟨-, -, e⟩ | ⟨-, -, r, -, e⟩ := iluEdge_cases s
  · simp [hr] at hr'
  all_goals
    obtain rfl := Host.Outcome.next.inj (e.symm.trans h)
    rw [settle_unreset _ _ hb, drawPipe_pipe, drawPipe_draws]
    exact ⟨congrArg (powerOnPipe s.draws) (hlen _), rfl⟩

/-- Before the first reset edge the host records a fault where it acts on a response shown, and nothing otherwise. -/
theorem observe_unreset {l : Ledger} (hb : l.booted = false) (act : HostAct) (rsp : Stage) :
    l.observe act rsp = if rsp.valid = true ∧ act ≠ .leave then l.addFault .actedBeforeReset else l := by
  cases hv : rsp.valid with
  | false => simp [observe_of_invalid _ _ hv]
  | true => cases act <;> simp [Ledger.observe, hv, hb]

/-- From the first reset edge on, a response left in its one cycle is lost (70_reset_and_hazards.md R156). -/
theorem observe_of_left {l : Ledger} {rsp : Stage} (hb : l.booted = true) (hv : rsp.valid = true) :
    l.observe .leave rsp = l.addFault .lostResponse := by
  simp [Ledger.observe, hb, hv]

/-! ### The one stop -/

theorem event_eq_idle_iff (p : Port) : p.event = .idle ↔ p.rst = false ∧ p.reqValid = false := by
  cases hr : p.rst <;> cases hv : p.reqValid <;> simp [Port.event, hr, hv]

theorem stuck_iff (s : State) : s.stuck = true ↔ s.host.booted = true ∧ s.now.act = .await ∧ s.now.port.rst = false ∧
    s.now.port.reqValid = false ∧ ∀ st ∈ s.pipe.stages, st.valid = false := by
  simp [State.stuck, event_eq_idle_iff, and_assoc]

/-- While a response is in flight the host does not wait in vain. -/
theorem not_stuck_of_mem_stages {s : State} {st : Stage} (hst : st ∈ s.pipe.stages) (hv : st.valid = true) :
    s.stuck = false := Bool.eq_false_of_not_eq_true fun h => by
  obtain ⟨-, -, -, -, hnone⟩ := (stuck_iff s).mp h
  simp [hnone st hst] at hv

theorem step_eq_fault_iff (s : State) : step s = .fault .hostStuck ↔ s.stuck = true := by
  cases hs : s.stuck with
  | true => simp [step, hs]
  | false =>
    obtain ⟨u, -, hstep⟩ := step_of_not_stuck hs
    simp [hstep]

/-! ### The stages by their distance from the port -/

/-- Counted from the port, the last stage is the first. -/
theorem reverse_stages (p : Pipe) : p.stages.reverse = p.last :: p.stages.dropLast.reverse := by
  rw [stages_eq_dropLast_append, List.reverse_concat, List.dropLast_concat]

/-- An edge without reset brings every stage one nearer to the port, with what enters S[1] behind them. -/
theorem reverse_stages_shift (p : Pipe) (st : Stage) :
    (p.shift st).stages.reverse = p.stages.dropLast.reverse ++ [st] := by
  rw [stages_shift, List.reverse_cons]

/-- The stages of a booted machine after a step without reset, counted from the port. -/
theorem step_reverse_stages {s t : State} (hb : s.host.booted = true) (hr : s.now.port.rst = false)
    (h : step s = .next t) :
    t.pipe.stages.reverse = s.pipe.stages.dropLast.reverse ++ [stageIn s.params.ptrW s.now.port] := by
  rw [step_pipe (.inl hb) h, edge_of_no_reset _ _ hr, reverse_stages_shift]

/-! ### A run along a falling rank: a response on its way to the port -/

/-- Where each state of rank k + 1 steps to one of rank k, a run of k steps from rank k reaches rank 0. -/
theorem run_of_rank {M : Host.Core} {P : Nat → M.State → Prop}
    (hstep : ∀ k s, P (k + 1) s → ∃ t, M.step s = .next t ∧ P k t) (k : Nat) {s : M.State} (hs : P k s) :
    ∃ t, M.run k s = .next t ∧ P 0 t := by
  induction k generalizing s with
  | zero => exact ⟨s, rfl, hs⟩
  | succ k ih =>
    obtain ⟨t, hst, ht⟩ := hstep k s hs
    rw [run_succ_of_step k hst]
    exact ih ht

/-- A response that is `k` edges from the port, none of them a reset. -/
def Arriving (st : Stage) (k : Nat) (s : State) : Prop :=
  s.host.booted = true ∧ s.pipe.stages.reverse[k]? = some st ∧ ResetFree k s

/-- A response in flight comes one stage nearer at each edge, and while one is in flight nothing stops. -/
theorem step_of_arriving {st : Stage} (hv : st.valid = true) (k : Nat) (s : State) (hs : Arriving st (k + 1) s) :
    ∃ t, step s = .next t ∧ Arriving st k t := by
  obtain ⟨hb, hst, hr, hfree⟩ := hs
  have hmem : st ∈ s.pipe.stages := List.mem_reverse.mp (List.mem_of_getElem? hst)
  obtain ⟨u, -, hstep⟩ := step_of_not_stuck (not_stuck_of_mem_stages hmem hv)
  rw [reverse_stages, List.getElem?_cons_succ] at hst
  obtain ⟨hlt, -⟩ := List.getElem?_eq_some_iff.mp hst
  refine ⟨_, hstep, by rw [step_booted hstep, hb, Bool.true_or], ?_, hfree _ hstep⟩
  rw [step_reverse_stages hb hr hstep, List.getElem?_append_left hlt, hst]

/-- At distance 0 it is the response on the port. -/
theorem rsp_of_arriving {st : Stage} {s : State} (hs : Arriving st 0 s) : s.rsp = st := by
  obtain ⟨-, hst, -⟩ := hs
  rw [reverse_stages] at hst
  exact Option.some.inj hst

/-- A step that samples a request puts its response LAT - 1 edges from the port. -/
theorem step_of_request {s : State} (hb : s.host.booted = true) (hv : s.now.port.reqValid = true)
    (hfree : ResetFree s.pipe.lat s) :
    ∃ t, step s = .next t ∧ Arriving (evalStage s.params.ptrW s.now.port.req) (s.pipe.lat - 1) t := by
  obtain ⟨hr, hfree⟩ : ResetFree (s.pipe.later.length + 1) s := hfree
  obtain ⟨u, -, hstep⟩ := step_of_not_stuck (not_stuck_of_request hr hv)
  have hin : stageIn s.params.ptrW s.now.port = evalStage s.params.ptrW s.now.port.req := by
    simp [stageIn, hv, evalStage]
  have hlen : s.pipe.stages.dropLast.reverse.length = s.pipe.lat - 1 := by simp
  refine ⟨_, hstep, by rw [step_booted hstep, hb, Bool.true_or], ?_, hfree _ hstep⟩
  rw [step_reverse_stages hb hr hstep, hin, ← hlen, List.getElem?_concat_length]

/-! ### The end of a run -/

theorem runEnded_iff (s : State) : s.runEnded = true ↔
    (∀ c ∈ s.now :: s.script, c.port.reqValid = false) ∧ s.host.outstanding = [] := by
  simp [State.runEnded]

/-- After a step the host drives cycles it was to drive before, or the idle one past the end of its script (log 4). -/
theorem step_cycle_mem {s t : State} (h : step s = .next t) :
    ∀ c ∈ t.now :: t.script, c = .idle ∨ c ∈ s.now :: s.script := by
  obtain ⟨-, u, -, rfl⟩ := step_next h
  simp only [closeEdge_now, closeEdge_script, State.nextCycle, State.nextScript]
  cases s.repeats with
  | true => exact fun c hc => .inr hc
  | false =>
    cases s.script with
    | nil => simp
    | cons next rest => exact fun c hc => .inr (List.mem_cons_of_mem _ hc)

/-- What holds of the idle cycle and of every cycle still to come holds of every cycle still to come after a step. -/
theorem step_keeps_cycles {C : Cycle → Prop} {s t : State} (hidle : C .idle) (hs : ∀ c ∈ s.now :: s.script, C c)
    (h : step s = .next t) : ∀ c ∈ t.now :: t.script, C c := by
  intro c hc
  obtain rfl | hc := step_cycle_mem h c hc
  · exact hidle
  · exact hs c hc

/-- A cycle in which the host presents nothing, resets nothing and does not wait. -/
def QuietCycle (c : Cycle) : Prop := c.port.reqValid = false ∧ c.port.rst = false ∧ c.act ≠ .await

/-- A matched state with quiet cycles to come, whose stages more than `k` edges from the port hold no response. -/
def Draining (k : Nat) (s : State) : Prop :=
  s.host.booted = true ∧ s.matched = true ∧ (∀ c ∈ s.now :: s.script, QuietCycle c) ∧
    ∀ st ∈ s.pipe.stages.reverse.drop (k + 1), st.valid = false

/-- A quiet edge lets a bubble in, and the responses come one stage nearer to the port. -/
theorem step_of_draining (k : Nat) (s : State) (hs : Draining (k + 1) s) : ∃ t, step s = .next t ∧ Draining k t := by
  obtain ⟨hb, hmatched, hquiet, hempty⟩ := hs
  obtain ⟨hv, hr, hact⟩ := hquiet s.now List.mem_cons_self
  obtain ⟨u, -, hstep⟩ := step_of_not_stuck (not_stuck_of_act hact)
  have hin : stageIn s.params.ptrW s.now.port = .bubble := by simp [stageIn, hv]
  rw [reverse_stages, List.drop_succ_cons] at hempty
  refine ⟨_, hstep, by rw [step_booted hstep, hb, Bool.true_or], step_keeps_matched hmatched hstep,
    step_keeps_cycles ⟨rfl, rfl, by decide⟩ hquiet hstep, fun st hst => ?_⟩
  rw [step_reverse_stages hb hr hstep, hin, List.drop_append] at hst
  obtain hst | hst := List.mem_append.mp hst
  · exact hempty st hst
  · rw [List.mem_singleton.mp (List.mem_of_mem_drop hst), bubble_valid]

/-- With no response behind the port, the host awaits nothing more. -/
theorem runEnded_of_draining {s : State} (hs : Draining 0 s) : s.runEnded = true := by
  obtain ⟨hb, hmatched, hquiet, hempty⟩ := hs
  rw [reverse_stages, List.drop_succ_cons, List.drop_zero] at hempty
  have hflight : s.pipe.inFlight = [] := List.filter_eq_nil_iff.mpr fun st hst => by simp [hempty st hst]
  obtain ⟨-, hout⟩ := port_inFlight_of_matched hb hmatched
  rw [hflight] at hout
  exact (runEnded_iff s).mpr ⟨fun c hc => (hquiet c hc).left, List.map_eq_nil_iff.mp hout.symm⟩

end Sys2Proof.Machine

namespace Sys2Proof.Proofs

open Sys2Proof.Machine Sys2Proof.Claims

/-- Settles O35: a reset edge leaves bubbles only and an empty queue, which meet both invariants. -/
theorem resetEdge : Obligations.ResetEdge := by
  intro s hr
  obtain ⟨u, -, h⟩ := step_of_not_stuck (not_stuck_of_reset hr)
  obtain ⟨hout, hshown⟩ := step_queue_of_reset hr h
  exact ⟨_, h, fun _ hst => List.eq_of_mem_replicate (step_stages_of_reset hr h ▸ hst),
    (parametersAreFixed _ _ h).right, step_rsp_of_reset hr h, hout, hshown, step_booted_of_reset hr h,
    step_stagesLegal_of_reset hr h,
    step_matched_of_reset hr h⟩

/-- Settles O41: the first edge samples the request, and each of the LAT - 1 others brings its response one stage nearer
to the port. -/
theorem responseAfterLatEdges : Obligations.ResponseAfterLatEdges := by
  intro s hb hv hfree
  obtain ⟨u, hstep, harr⟩ := step_of_request hb hv hfree
  obtain ⟨t, hrun, ht⟩ := run_of_rank (M := Sys2Proof.core) (step_of_arriving rfl) _ harr
  exact ⟨t, (run_succ_of_step (M := Sys2Proof.core) _ hstep).trans hrun, rsp_of_arriving ht⟩

/-- Settles O46: a step faults exactly where `State.stuck` says so, and answers everywhere else. -/
theorem onlyAWaitingHostIsStuck : Obligations.OnlyAWaitingHostIsStuck := by
  intro s
  refine ⟨(step_eq_fault_iff s).trans (stuck_iff s), fun h => ?_⟩
  have hstuck : s.stuck = false := Bool.eq_false_of_not_eq_true (mt (step_eq_fault_iff s).mpr h)
  obtain ⟨u, -, hstep⟩ := step_of_not_stuck hstuck
  exact ⟨_, hstep⟩

/-- Settles O49: before the first reset edge all a step can record is the fault of acting, and a reset edge from
power-on meets both invariants. -/
theorem nothingCountsBeforeReset : Obligations.NothingCountsBeforeReset := by
  refine ⟨fun s t hb h => ?_, fun params n now script hr hact => ?_⟩
  · obtain ⟨hcalls, hfaults⟩ := step_record h
    rw [observe_unreset hb] at hcalls hfaults
    refine ⟨?_, fun hv hact => ?_, fun hnone => ?_⟩
    · rw [hcalls]; split <;> rfl
    · rw [hfaults, if_pos ⟨hv, hact⟩, addFault_faults]
    · rw [hfaults, if_neg fun ⟨hv, hact⟩ => hnone.elim (by simp [hv]) hact]
  · obtain ⟨u, -, h⟩ := step_of_not_stuck (s := State.powerOn params n now script) (not_stuck_of_reset hr)
    obtain ⟨hparams, hlat⟩ := parametersAreFixed _ _ h
    refine ⟨_, h, (safe_iff _).mpr ⟨step_booted_of_reset hr h, step_stagesLegal_of_reset hr h,
      step_matched_of_reset hr h, ?_⟩, hlat.trans (lat_powerOnPipe 0 n), hparams⟩
    rw [(step_record h).right, observe_unreset rfl, if_neg fun hacted => hacted.right hact]
    rfl

/-- Settles O51: the stages in flight answer the outstanding requests one by one, and a reset edge empties the queue. -/
theorem outstandingCountsRequestsInFlight : Obligations.OutstandingCountsRequestsInFlight := by
  refine ⟨fun s hb hs => ?_, fun s t h hr => (step_queue_of_reset hr h).left⟩
  obtain ⟨-, hflight⟩ := port_inFlight_of_matched hb hs
  calc s.host.outstanding.length
    _ = s.pipe.inFlight.length := by rw [hflight, List.length_map]
    _ = (s.pipe.stages.dropLast.filter (·.valid)).length := by
      rw [Pipe.inFlight, List.filter_reverse, List.length_reverse]

/-- Settles O52: quiet edges drain the stages behind the port, LAT - 1 of them at most; a reset edge empties the queue
at once. -/
theorem runEndsAfterLastRequest : Obligations.RunEndsAfterLastRequest := by
  refine ⟨fun s hb hs hquiet => ?_, fun s hv hr => ?_⟩
  · have hdrain : Draining (s.pipe.lat - 1) s := by
      refine ⟨hb, hs, hquiet, fun st hst => ?_⟩
      rw [List.drop_of_length_le (by simp [Pipe.lat])] at hst
      cases hst
    obtain ⟨t, hrun, ht⟩ := run_of_rank (M := Sys2Proof.core) step_of_draining _ hdrain
    exact ⟨t, hrun, runEnded_of_draining ht⟩
  · obtain ⟨u, -, h⟩ := step_of_not_stuck (not_stuck_of_reset hr)
    exact ⟨_, h, (runEnded_iff _).mpr ⟨step_keeps_cycles rfl hv h, (step_queue_of_reset hr h).left⟩⟩

/-- Settles O55: the stages are drawn at power-on, and drawn anew at every edge before the first reset edge. -/
theorem unresetStagesAreFree : Obligations.UnresetStagesAreFree := by
  refine ⟨fun _ _ _ _ _ hi => getElem?_stages_powerOnPipe 0 hi, fun s hb hr => ?_⟩
  obtain ⟨u, hu, h⟩ := step_of_not_stuck (not_stuck_of_unreset hb)
  obtain ⟨hpipe, hdraws⟩ := iluEdge_unreset hb hr hu
  refine ⟨_, h, by rw [step_booted h, hb, hr, Bool.or_false], (parametersAreFixed _ _ h).right, hdraws, fun i hi => ?_⟩
  rw [closeEdge_pipe, hpipe]
  exact getElem?_stages_powerOnPipe s.draws hi

/-- Settles O48: a response left is recorded as lost, and without one there is nothing to record. -/
theorem lostResponses : Obligations.LostResponses := by
  refine ⟨fun s hb hact hv => ?_, fun s hv hs => ?_⟩
  · obtain ⟨u, -, h⟩ := step_of_not_stuck (not_stuck_of_rsp hv)
    obtain ⟨hcalls, hfaults⟩ := step_record h
    rw [hact, observe_of_left hb hv] at hcalls hfaults
    exact ⟨_, h, hfaults, hcalls⟩
  · obtain ⟨u, -, h⟩ := step_of_not_stuck hs
    obtain ⟨hcalls, hfaults⟩ := step_record h
    rw [observe_of_invalid _ _ hv] at hcalls hfaults
    exact ⟨_, h, hfaults, hcalls⟩

end Sys2Proof.Proofs
